-- ==== Sys2Proof/Word.lean ====
section
/-! DEFINITION. The words of the block: bytes, line bits and bit sequences (spec 00 R14, R15). -/

namespace Sys2Proof

/-- One byte: a message byte or an 8-bit luminance sample. -/
abbrev Byte := BitVec 8

/-- One bus word (20 R61: `bus_wdata`, `bus_rdata`). -/
abbrev Word := BitVec 32

/-- A bit sequence in time order, its first element first (00 R15).
`true` is bit 1, shown High (30 R91). -/
abbrev Bits := List Bool

end Sys2Proof
end

