-- ==== Sys2Proof/Config.lean ====
section
/-! DEFINITION. The parameters of 00 R12 with their defaults, and the free values of 93 U1 and U2. -/

namespace Sys2Proof.Config

/-- The parameters: one field for each row of 00 R12, with the table's default (93 U11, U12), and then the
identification value and the windows' offsets of the register map. -/
structure Params where
  startMarker : Bits := [true, true, true, true, false, false, false, false]
  endMarker : Bits := [false, false, false, false, true, true, true, true]
  markerLen : Nat := 8
  bufCap : Nat := 10000
  bufKeep : Nat := 5000
  minDecodeLen : Nat := 16
  bitdurMin : Nat := 50
  bitdurMax : Nat := 1000
  txMaxChars : Nat := 500
  txBufBytes : Nat := 2000
  rxMsgBytes : Nat := 624
  threshReset : BitVec 8 := 128
  stableReset : BitVec 8 := 3
  halfwReset : BitVec 8 := 50
  endSearchFrom : Nat := 8
  runMax : Nat := 255
  frameDimBits : Nat := 16
  busAddrBits : Nat := 16
  mailboxDepth : Nat := 1
  /-- 10 R22, D42. -/
  idValue : Word := 0x57484E31
  /-- 20 R62: the windows' first byte offsets. -/
  txMsgBase : Nat := 0x1000
  rxMsgBase : Nat := 0x2000
  deriving DecidableEq, Repr

/-- The instance the model is of: every parameter at its default (00 R5, R12; log 9).
It is an abbreviation because the widths among the parameters stand in types. -/
abbrev params : Params := {}

/-- The value a byte of a message window that nothing has written gives at draw `draw`
(10 R47, R48; 70 R271; 93 U1, U2: any value, a fresh choice at each read).  A FREE VALUE: it has no
body, so nothing can be proved of it (log 3). -/
opaque freeByte (draw : Nat) (addr : Nat) : Byte

end Sys2Proof.Config
end

