-- ==== Sys2Proof/Syntax.lean ====
section
/-! DEFINITION. The instructions of the block: one constructor of `Instr` for each row of
spec/opcode_table.json (00 R2), and the words they are presented as. -/

namespace Sys2Proof

/-- A frame on the capture port (20 R74): `cap_w`, `cap_h` and the luminance of every pixel.
A pixel listed in `pix` has the value listed first for its (x, y); every other pixel has `fill` (log 6). -/
structure Frame where
  w : BitVec Config.params.frameDimBits
  h : BitVec Config.params.frameDimBits
  fill : Byte
  pix : List ((Nat × Nat) × Byte)
  deriving DecidableEq, Repr

/-- What carries an instruction to the block: a word written to CMD (30 R86), an event code with the
frame beside it (30 R90, 20 R74), or a wire symbol's line bits, first-sent first (30 R80, R83). -/
inductive Code where
  | cmd (w : Word)
  | evt (code : BitVec 3) (frame : Frame)
  | wire (bits : Bits)
  deriving DecidableEq, Repr

/-- Why bits are no instruction: a bit sequence on the wire port that is none of the six symbols.
Every command word and every event code is an instruction (30 R88, R90). -/
inductive DecodeError where
  | notAWireSymbol
  deriving DecidableEq, Repr

/-- The rows of spec/opcode_table.json.  A reserved row's operand is its free bits. -/
inductive Instr where
  -- commands (30 R87)
  | nop
  | txSend
  | txStop
  | rxStart
  | rxStop
  | rxMsgAck
  -- reserved command words (30 R88)
  | reserved0607 (low : BitVec 1)
  | reserved080F (low : BitVec 3)
  | reserved101F (low : BitVec 4)
  | reserved203F (low : BitVec 5)
  | reserved407F (low : BitVec 6)
  | reserved80FF (low : BitVec 7)
  | illegalRsv (rsv : BitVec 24) (opcode : BitVec 8)
  -- capture events (30 R90)
  | evtNone
  | evtOpenOk
  | evtOpenFail
  | evtFrame (frame : Frame)
  | evtFrameFail
  | evtFatal
  | evtReserved (low : BitVec 1)
  -- wire symbols (30 R80, R83, R84)
  | startMarker
  | endMarker
  | pairRaw0
  | pairRaw1
  | pairInvalid00
  | pairInvalid11
  deriving DecidableEq, Repr

end Sys2Proof
end

