-- ==== Sys2Proof/WellFormed.lean ====
section
/-! DEFINITION. What an instruction's operands must satisfy. -/

namespace Sys2Proof

/-- Every listed pixel lies in the frame: `cap_pix(x, y)` exists for 0 <= x < cap_w, 0 <= y < cap_h (20 R74). -/
def Frame.wellFormed (f : Frame) : Bool :=
  f.pix.all fun p => decide (p.1.1 < f.w.toNat) && decide (p.1.2 < f.h.toNat)

/-- The ILLEGAL_RSV row is the words with RSV other than 0 (opcode table; 30 R88); an EVT_FRAME lists
pixels of its frame only.  Every other row's operands are free. -/
def Instr.wellFormed : Instr → Bool
  | .illegalRsv rsv _ => decide (rsv ≠ 0#24)
  | .evtFrame f => f.wellFormed
  | .nop | .txSend | .txStop | .rxStart | .rxStop | .rxMsgAck => true
  | .reserved0607 _ | .reserved080F _ | .reserved101F _ => true
  | .reserved203F _ | .reserved407F _ | .reserved80FF _ => true
  | .evtNone | .evtOpenOk | .evtOpenFail | .evtFrameFail | .evtFatal | .evtReserved _ => true
  | .startMarker | .endMarker | .pairRaw0 | .pairRaw1 | .pairInvalid00 | .pairInvalid11 => true

end Sys2Proof
end

