-- ==== Sys2Proof/Decode.lean ====
section
/-! DEFINITION. Decoding, total, and encoding: command words (30 R86 to R88), event codes (30 R90) and
wire symbols (30 R80, R83, R84). -/

namespace Sys2Proof

/-- The low `n` bits of `w`, most significant first: the table's bit strings are written first-sent first
with the first-sent bit most significant. -/
def bitsMsbFirst (n w : Nat) : Bits :=
  (List.range n).map fun k => w.testBit (n - 1 - k)

/-- 44 R220: RSV is looked at first, then OPCODE (30 R86, R87, R88). -/
def decodeCommand (w : Word) : Instr :=
  let rsv := w.extractLsb' 8 24
  let op := w.setWidth 8
  if rsv ≠ 0#24 then .illegalRsv rsv op
  else if op = 0x00#8 then .nop
  else if op = 0x01#8 then .txSend
  else if op = 0x02#8 then .txStop
  else if op = 0x03#8 then .rxStart
  else if op = 0x04#8 then .rxStop
  else if op = 0x05#8 then .rxMsgAck
  else if op < 0x08#8 then .reserved0607 (op.setWidth 1)
  else if op < 0x10#8 then .reserved080F (op.setWidth 3)
  else if op < 0x20#8 then .reserved101F (op.setWidth 4)
  else if op < 0x40#8 then .reserved203F (op.setWidth 5)
  else if op < 0x80#8 then .reserved407F (op.setWidth 6)
  else .reserved80FF (op.setWidth 7)

/-- 30 R90.  The frame is the operand of a FRAME event and of no other. -/
def decodeEvent (code : BitVec 3) (frame : Frame) : Instr :=
  if code = 0#3 then .evtNone
  else if code = 1#3 then .evtOpenOk
  else if code = 2#3 then .evtOpenFail
  else if code = 3#3 then .evtFrame frame
  else if code = 4#3 then .evtFrameFail
  else if code = 5#3 then .evtFatal
  else .evtReserved (code.setWidth 1)

/-- The wire symbols of 30 R80, R83 and R84, first-sent bit first. -/
def decodeSymbol (bits : Bits) : Except DecodeError Instr :=
  if bits = Config.params.startMarker then .ok .startMarker
  else if bits = Config.params.endMarker then .ok .endMarker
  else
    match bits with
    | [true, false] => .ok .pairRaw0
    | [false, true] => .ok .pairRaw1
    | [false, false] => .ok .pairInvalid00
    | [true, true] => .ok .pairInvalid11
    | _ => .error .notAWireSymbol

/-- The instruction a code stands for. -/
def decode : Code → Except DecodeError Instr
  | .cmd w => .ok (decodeCommand w)
  | .evt code frame => .ok (decodeEvent code frame)
  | .wire bits => decodeSymbol bits

/-- The frame beside an event that reads none: no pixels. -/
def Frame.empty : Frame := ⟨BitVec.ofNat _ 0, BitVec.ofNat _ 0, 0#8, []⟩

/-- The code of an instruction, from the same tables. -/
def encode : Instr → Code
  | .nop => .cmd 0x00000000#32
  | .txSend => .cmd 0x00000001#32
  | .txStop => .cmd 0x00000002#32
  | .rxStart => .cmd 0x00000003#32
  | .rxStop => .cmd 0x00000004#32
  | .rxMsgAck => .cmd 0x00000005#32
  | .reserved0607 low => .cmd (0x00000006#32 ||| low.setWidth 32)
  | .reserved080F low => .cmd (0x00000008#32 ||| low.setWidth 32)
  | .reserved101F low => .cmd (0x00000010#32 ||| low.setWidth 32)
  | .reserved203F low => .cmd (0x00000020#32 ||| low.setWidth 32)
  | .reserved407F low => .cmd (0x00000040#32 ||| low.setWidth 32)
  | .reserved80FF low => .cmd (0x00000080#32 ||| low.setWidth 32)
  | .illegalRsv rsv opcode => .cmd (rsv ++ opcode)
  | .evtNone => .evt 0#3 Frame.empty
  | .evtOpenOk => .evt 1#3 Frame.empty
  | .evtOpenFail => .evt 2#3 Frame.empty
  | .evtFrame frame => .evt 3#3 frame
  | .evtFrameFail => .evt 4#3 Frame.empty
  | .evtFatal => .evt 5#3 Frame.empty
  | .evtReserved low => .evt (6#3 ||| low.setWidth 3) Frame.empty
  | .startMarker => .wire Config.params.startMarker
  | .endMarker => .wire Config.params.endMarker
  | .pairRaw0 => .wire [true, false]
  | .pairRaw1 => .wire [false, true]
  | .pairInvalid00 => .wire [false, false]
  | .pairInvalid11 => .wire [true, true]

/-- The code a word of spec/opcode_table.json stands for: 32 bits a command word, 3 bits an event code
with an empty frame, 2 bits a pair.  One byte holds an event code where it is below 8 and a marker's
line bits otherwise (log 7). -/
def tableCode (nbits w : Nat) : Option Code :=
  if nbits = 32 then some (.cmd (BitVec.ofNat 32 w))
  else if nbits = 3 then some (.evt (BitVec.ofNat 3 w) Frame.empty)
  else if nbits = 2 then some (.wire (bitsMsbFirst 2 w))
  else if nbits = 8 then
    if w < 8 then some (.evt (BitVec.ofNat 3 w) Frame.empty) else some (.wire (bitsMsbFirst 8 w))
  else none

/-- The instruction the decoder reads from a word of the opcode table. -/
def decodeTableWord (nbits w : Nat) : Option Instr :=
  match tableCode nbits w with
  | none => none
  | some c =>
    match decode c with
    | .ok i => some i
    | .error _ => none

end Sys2Proof
end

