-- ==== Sys2Proof/Machine/State.lean ====
section
/-! DEFINITION. The state of the block: everything 10_state.md gives it, as plain data, the reasons a step
can stop, and the state after power-up and reset. -/

namespace Sys2Proof.Machine

/-- CMD_STATUS.CODE (10 R25); codes 6 to 15 are never written (93 U13). -/
inductive CmdCode where
  | none | accepted | ignoredBusy | invalidBitDuration | msgTooLong | illegal
  deriving DecidableEq, Repr

/-- `tx_phase` (10 R49). -/
inductive TxPhase where
  | bits | guard
  deriving DecidableEq, Repr

/-- `tx_last_end` (10 R49). -/
inductive TxEnd where
  | none | completed | cancelled
  deriving DecidableEq, Repr

/-- `rx_state` (10 R52). -/
inductive RxSession where
  | idle | opening | active
  deriving DecidableEq, Repr

/-- RX_DEC_RESULT.CODE (10 R43); codes 8 to 15 are never written (93 U13). -/
inductive DecCode where
  | none | ok | missingStartMarker | missingEndMarker | oddPayloadLength | invalidPair
  | notByteAligned | invalidUtf8
  deriving DecidableEq, Repr

/-- CMD_STATUS (10 R25). -/
structure CmdStatus where
  code : CmdCode
  opcode : BitVec 8
  deriving DecidableEq, Repr

/-- CFG (10 R23). -/
structure Cfg where
  thresh : BitVec 8
  stable : BitVec 8
  halfw : BitVec 8
  deriving DecidableEq, Repr

/-- The TX sequencer and its registers (10 R29 to R35, R49 to R51). -/
structure Tx where
  /-- TX_BITDUR[15:0] (R29). -/
  bitdur : BitVec 16
  /-- TX_LEN[15:0] (R30). -/
  len : BitVec 16
  /-- `tx_busy` (R49). -/
  busy : Bool
  /-- `tx_phase` (R49). -/
  phase : TxPhase
  /-- `tx_cancel` (R49). -/
  cancel : Bool
  /-- `tx_last_end` (R49). -/
  lastEnd : TxEnd
  /-- `tx_bit_index` (R50). -/
  bitIndex : BitVec 16
  /-- `tx_timer` (R50). -/
  timer : BitVec 32
  /-- `tx_level` (R51). -/
  level : Bool
  /-- `disp_acquire` (R51). -/
  acquire : Bool
  /-- TX_TOTAL (R32). -/
  total : BitVec 16
  /-- TX_PROGRESS.SENT (R33). -/
  sent : BitVec 16
  /-- TX_PROGRESS.PCT (R33). -/
  pct : BitVec 7
  /-- TX_CHARS (R34). -/
  chars : BitVec 16
  /-- TX_EST_MS (R35). -/
  estMs : BitVec 32
  /-- The model's own: the draw that gives the running send its never written bytes (93 U1; log 3). -/
  draw : Nat
  deriving DecidableEq, Repr

/-- The RX sampler and its registers (10 R36 to R42, R52, R53). -/
structure Rx where
  /-- `rx_state` (R52). -/
  session : RxSession
  /-- `cap_hold` (R52). -/
  hold : Bool
  /-- `cand_valid` (R53). -/
  candValid : Bool
  /-- `cand_val` (R53). -/
  candVal : Bool
  /-- `cand_run` (R53). -/
  candRun : BitVec 8
  /-- `last_obs` (R53). -/
  lastObs : Bool
  /-- `last_emit_bit` (R53). -/
  lastEmit : Bool
  /-- RX_EMIT_COUNT (R38). -/
  emitCount : BitVec 32
  /-- RX_FRAME_COUNT (R39). -/
  frameCount : BitVec 32
  /-- RX_SKIP_COUNT (R40). -/
  skipCount : BitVec 32
  /-- RX_EMIT_SUM (R41). -/
  emitSum : BitVec 32
  /-- RX_EMIT_CNT (R42). -/
  emitCnt : BitVec 32
  deriving DecidableEq, Repr

/-- The frame assembler and its registers (10 R43 to R46, R54, R55); the mailbox's bytes are in memory. -/
structure Asm where
  /-- `buf`, the RollingBitBuffer (R54). -/
  buf : Bits
  /-- RX_DEC_RESULT.CODE (R43). -/
  decCode : DecCode
  /-- RX_DEC_RESULT.POS (R43). -/
  decPos : BitVec 16
  /-- RX_DEC_COUNT (R44). -/
  decCount : BitVec 32
  /-- `msg_valid` (R55). -/
  msgValid : Bool
  /-- RX_MSG_LEN (R45). -/
  msgLen : BitVec 10
  /-- RX_MSG_COUNT (R46). -/
  msgCount : BitVec 32
  deriving DecidableEq, Repr

/-- The bytes of the two message windows (10 R47, R48), by byte address (20 R62). -/
abbrev Memory := List Host.Cell

/-- The canonical form: addresses strictly rising.  An unlisted address has no value (log 3), so no
listed byte equals what an unlisted one reads as. -/
abbrev Memory.wf (m : Memory) : Prop := m.Pairwise fun a b => a.1 < b.1

/-- A host access (20 R61). -/
structure BusAccess where
  write : Bool
  addr : BitVec Config.params.busAddrBits
  size : BitVec 2
  wdata : Word
  deriving DecidableEq, Repr

/-- `bus_rdata` and `bus_err` of one access (20 R61). -/
structure BusResp where
  rdata : Word
  err : Bool
  deriving DecidableEq, Repr

/-- What the outside presents in one clock cycle (20 R60, R61, R74); `bus = none` is `bus_valid = 0`. -/
structure Cycle where
  rst : Bool
  bus : Option BusAccess
  evt : BitVec 3
  frame : Frame
  deriving DecidableEq, Repr

/-- One entry of the outside's script (log 1): a clock cycle, or the line bits of a wire symbol reaching
the frame assembler, one bit a cycle (log 5). -/
inductive Input where
  | cycle (c : Cycle)
  | symbol (bits : Bits)
  deriving DecidableEq, Repr

/-- The whole state.  Each field's rule stands in INVENTORY.md. -/
structure State where
  /-- CMD_STATUS (10 R25). -/
  cmdStatus : CmdStatus
  /-- CFG (10 R23). -/
  cfg : Cfg
  /-- IRQ_STATUS[5:0] (10 R26). -/
  irqStatus : BitVec 6
  /-- IRQ_ENABLE[5:0] (10 R27). -/
  irqEnable : BitVec 6
  /-- ERR[2:0] (10 R28). -/
  err : BitVec 3
  tx : Tx
  rx : Rx
  asm : Asm
  /-- TX_MSG and RX_MSG (10 R47, R48). -/
  mem : Memory
  /-- The response of the last cycle's access, none when it had no access (20 R61; log 4). -/
  busResp : Option BusResp
  /-- The model's own: CLK_PER_MS less 1 (00 R11; log 2).  No step writes it. -/
  clkIndex : Fin 4294967
  /-- The model's own: the number of the next draw of a free value (log 3). -/
  freshDraw : Nat
  /-- The model's own: what the outside presents, one entry a step (log 1). -/
  inputs : List Input
  deriving DecidableEq, Repr

/-- Why the machine stops.  The spec gives the block no way to stop (60 R243, R246). -/
inductive Fault where
  /-- Raised by the TX phase when it would drive a line bit outside the frame of the running send, the
  domain of FrameBit (40 R100).  Only a state that no run reaches raises it (log 8).  Safe. -/
  | sequencerOutsideFrame
  deriving DecidableEq, Repr

/-- Why the machine refuses an input. -/
inductive Refusal where
  /-- Raised by an arm of `exec` whose instruction has no meaning yet; no arm does.  Safe. -/
  | notModelled (mnemonic : String)
  /-- Raised by `step` when a `symbol` input is none of the six wire symbols of the opcode table (log 5).  Safe. -/
  | unknownSymbol
  deriving DecidableEq, Repr

/-- The TX side after reset (70 R270). -/
def Tx.reset : Tx where
  bitdur := 0#16
  len := 0#16
  busy := false
  phase := .bits
  cancel := false
  lastEnd := .none
  bitIndex := 0#16
  timer := 0#32
  level := false
  acquire := false
  total := 0#16
  sent := 0#16
  pct := 0#7
  chars := 0#16
  estMs := 0#32
  draw := 0

/-- The RX side after reset (70 R270). -/
def Rx.reset : Rx where
  session := .idle
  hold := false
  candValid := false
  candVal := false
  candRun := 0#8
  lastObs := false
  lastEmit := false
  emitCount := 0#32
  frameCount := 0#32
  skipCount := 0#32
  emitSum := 0#32
  emitCnt := 0#32

/-- The assembler after reset (70 R270). -/
def Asm.reset : Asm where
  buf := []
  decCode := .none
  decPos := 0#16
  decCount := 0#32
  msgValid := false
  msgLen := 0#10
  msgCount := 0#32

/-- CFG after reset (10 R23). -/
def Cfg.reset : Cfg :=
  ⟨Config.params.threshReset, Config.params.stableReset, Config.params.halfwReset⟩

/-- The machine after power-up and reset (70 R270, R271, R272): every register at its reset value, no
byte of the message windows written.  The model's own fields start at 0 and empty (logs 1 to 4). -/
def State.reset : State where
  cmdStatus := ⟨.none, 0#8⟩
  cfg := Cfg.reset
  irqStatus := 0#6
  irqEnable := 0#6
  err := 0#3
  tx := Tx.reset
  rx := Rx.reset
  asm := Asm.reset
  mem := []
  busResp := none
  clkIndex := 0
  freshDraw := 0
  inputs := []

end Sys2Proof.Machine
end

