-- ==== Sys2Proof/Machine/Flags.lean ====
section
/-! DEFINITION. Interrupt and error bits (60 R244 to R249) and the views software reads of the status
registers (10 R25, R31, R36, R43). -/

namespace Sys2Proof.Machine

/-- The interrupt sources (10 R26, 60 R244). -/
inductive Irq where
  | txBit | txDone | rxBit | rxMsg | rxErr | cmdErr
  deriving DecidableEq, Repr

/-- The sticky error causes (10 R28). -/
inductive ErrCause where
  | devUnavailable | captureFault | msgOverrun
  deriving DecidableEq, Repr

/-- The bit of IRQ_STATUS a source sets (10 R26). -/
def irqMask : Irq → BitVec 6
  | .txBit => 0x01#6
  | .txDone => 0x02#6
  | .rxBit => 0x04#6
  | .rxMsg => 0x08#6
  | .rxErr => 0x10#6
  | .cmdErr => 0x20#6

/-- The bit of ERR a cause sets (10 R28). -/
def errMask : ErrCause → BitVec 3
  | .devUnavailable => 1#3
  | .captureFault => 2#3
  | .msgOverrun => 4#3

/-- `set_irq(B)` (60 R244): a bit that is already 1 stays 1, whatever IRQ_ENABLE holds (R245). -/
def setIrq (b : Irq) (s : State) : State :=
  { s with irqStatus := s.irqStatus ||| irqMask b }

/-- An ERR bit is sticky (60 R242). -/
def setErr (c : ErrCause) (s : State) : State :=
  { s with err := s.err ||| errMask c }

/-- A host write to IRQ_STATUS: write one to clear (60 R247). -/
def clearIrq (w : Word) (s : State) : State :=
  { s with irqStatus := s.irqStatus &&& ~~~ (w.setWidth 6) }

/-- A host write to ERR: write one to clear (60 R247). -/
def clearErr (w : Word) (s : State) : State :=
  { s with err := s.err &&& ~~~ (w.setWidth 3) }

/-- The `irq` output (20 R75, 60 R245), from the registers at the start of the cycle. -/
def irqOutput (s : State) : Bool :=
  decide (s.irqStatus &&& s.irqEnable ≠ 0#6)

/-- A flag as a 1-bit field. -/
def bit (b : Bool) : BitVec 1 := BitVec.ofBool b

/-- CMD_STATUS.CODE (10 R25). -/
def cmdCodeBits : CmdCode → BitVec 4
  | .none => 0#4
  | .accepted => 1#4
  | .ignoredBusy => 2#4
  | .invalidBitDuration => 3#4
  | .msgTooLong => 4#4
  | .illegal => 5#4

/-- RX_DEC_RESULT.CODE (10 R43). -/
def decCodeBits : DecCode → BitVec 4
  | .none => 0#4
  | .ok => 1#4
  | .missingStartMarker => 2#4
  | .missingEndMarker => 3#4
  | .oddPayloadLength => 4#4
  | .invalidPair => 5#4
  | .notByteAligned => 6#4
  | .invalidUtf8 => 7#4

/-- TX_STATUS.LAST_END (10 R31). -/
def lastEndBits : TxEnd → BitVec 2
  | .none => 0#2
  | .completed => 1#2
  | .cancelled => 2#2

/-- TX_STATUS.PHASE (10 R31). -/
def phaseBit : TxPhase → BitVec 1
  | .bits => 0#1
  | .guard => 1#1

/-- TX_STATUS.STATE (10 R31): 0 IDLE, 1 ACTIVE, 2 STOPPING. -/
def txStateBits (t : Tx) : BitVec 2 :=
  if t.busy then (if t.cancel then 2#2 else 1#2) else 0#2

/-- RX_STATUS.STATE (10 R36). -/
def rxSessionBits : RxSession → BitVec 2
  | .idle => 0#2
  | .opening => 1#2
  | .active => 2#2

/-- CFG as read (10 R23). -/
def cfgWord (c : Cfg) : Word :=
  0#8 ++ c.halfw ++ c.stable ++ c.thresh

/-- CMD_STATUS as read (10 R25). -/
def cmdStatusWord (c : CmdStatus) : Word :=
  0#16 ++ c.opcode ++ 0#4 ++ cmdCodeBits c.code

/-- TX_STATUS as read (10 R31); PHASE reads 0 when idle. -/
def txStatusWord (t : Tx) : Word :=
  0#24 ++ lastEndBits t.lastEnd ++ bit t.cancel ++ bit t.acquire ++ bit t.level
    ++ (if t.busy then phaseBit t.phase else 0#1) ++ txStateBits t

/-- TX_PROGRESS as read (10 R33). -/
def txProgressWord (t : Tx) : Word :=
  0#9 ++ t.pct ++ t.sent

/-- RX_STATUS as read (10 R36); CAND_VAL and CAND_RUN read 0 without a candidate. -/
def rxStatusWord (r : Rx) (a : Asm) : Word :=
  0#16 ++ (if r.candValid then r.candRun else 0#8) ++ 0#1 ++ bit a.msgValid ++ bit r.lastEmit
    ++ bit r.lastObs ++ bit (r.candValid && r.candVal) ++ bit r.candValid ++ rxSessionBits r.session

/-- RX_BUF_LEN as read (10 R37). -/
def rxBufLenWord (a : Asm) : Word :=
  (BitVec.ofNat 14 a.buf.length).setWidth 32

/-- RX_DEC_RESULT as read (10 R43). -/
def rxDecResultWord (a : Asm) : Word :=
  a.decPos ++ 0#12 ++ decCodeBits a.decCode

end Sys2Proof.Machine
end

