-- ==== Sys2Proof/Machine/Ops.lean ====
section
/-! DEFINITION. The operations the meanings share: sequencing, the bytes of the message windows, draws of
free values, the result of a command, the recording of an error (all of "trap entry", 60 R246), the bus
response, and reset (70 R270). -/

namespace Sys2Proof.Machine

/-- What a step or a meaning answers. -/
abbrev Result := Host.Outcome State Fault Refusal

/-- One phase after another (60 R250): the later one sees the earlier one's state. -/
def chain (r : Result) (f : State → Result) : Result :=
  match r with
  | .next s => f s
  | .fault e => .fault e
  | .refused e => .refused e

/-! ### Memory -/

/-- The byte at an address; none where nothing has written (70 R271). -/
def readMem (m : Memory) (a : Nat) : Option Byte :=
  List.lookup a m

/-- Bytes as cells at consecutive addresses. -/
def cellsAt (base : Nat) : List Byte → Memory
  | [] => []
  | b :: bs => (base, b) :: cellsAt (base + 1) bs

/-- Store bytes at consecutive addresses, in canonical form. -/
def writeMem (m : Memory) (base : Nat) (bs : List Byte) : Memory :=
  m.filter (fun c => decide (c.1 < base)) ++ cellsAt base bs
    ++ m.filter (fun c => decide (base + bs.length ≤ c.1))

/-- The byte a read sees: what was written, else any value, the free byte of draw `draw` (93 U1, U2). -/
def byteOrFree (m : Memory) (draw a : Nat) : Byte :=
  (readMem m a).getD (Config.freeByte draw a)

/-- The little-endian word of four bytes (20 R64). -/
def wordOfBytes (b0 b1 b2 b3 : Byte) : Word :=
  b3 ++ b2 ++ b1 ++ b0

/-- The four bytes of a word, byte 0 first (20 R64). -/
def bytesOfWord (w : Word) : List Byte :=
  [w.extractLsb' 0 8, w.extractLsb' 8 8, w.extractLsb' 16 8, w.extractLsb' 24 8]

/-- The word a read of four consecutive bytes sees at draw `draw`. -/
def wordAt (m : Memory) (draw a : Nat) : Word :=
  wordOfBytes (byteOrFree m draw a) (byteOrFree m draw (a + 1)) (byteOrFree m draw (a + 2))
    (byteOrFree m draw (a + 3))

/-! ### Commands and errors -/

/-- CMD_STATUS after a command word with this OPCODE (44 R220). -/
def cmdResult (opcode : BitVec 8) (code : CmdCode) (s : State) : State :=
  { s with cmdStatus := ⟨code, opcode⟩ }

/-- A command that ends with code 3, 4 or 5: the record and CMD_ERR, nothing else (44 R220, 60 R240). -/
def rejectCommand (opcode : BitVec 8) (code : CmdCode) (s : State) : State :=
  setIrq .cmdErr (cmdResult opcode code s)

/-- A receive session ended by its device: the session closes, the cause is recorded, RX_ERR
(60 R240, R241; 42 R172, R174). -/
def failSession (cause : ErrCause) (s : State) : State :=
  setIrq .rxErr (setErr cause { s with rx := { s.rx with session := .idle, hold := false } })

/-! ### Bus response and reset -/

/-- The response of the cycle's access (20 R61). -/
def respond (rdata : Word) (err : Bool) (s : State) : State :=
  { s with busResp := some ⟨rdata, err⟩ }

/-- A cycle that presents no access has no response. -/
def noResponse (s : State) : State :=
  { s with busResp := none }

/-- 70 R270: every register and the internal state at the reset value; the message windows unchanged.
The model's own clock parameter, draw counter and script are no registers and stay. -/
def resetRegisters (s : State) : State :=
  { State.reset with
    mem := s.mem, clkIndex := s.clkIndex, freshDraw := s.freshDraw, inputs := s.inputs }

end Sys2Proof.Machine
end

