-- ==== Sys2Proof/Machine/Commands.lean ====
section
/-! DEFINITION. The commands of 44_commands.md that belong to no component: NOP, RX_MSG_ACK and the
illegal words. -/

namespace Sys2Proof.Machine

/-- NOP (44 R222). -/
def execNop (s : State) : Result := .next (cmdResult 0x00#8 .accepted s)

/-- RX_MSG_ACK (44 R223). -/
def execRxMsgAck (s : State) : Result :=
  .next (cmdResult 0x05#8 .accepted { s with asm := { s.asm with msgValid := false } })

/-- An illegal word with these OPCODE bits (44 R224): ILLEGAL and CMD_ERR, nothing else. -/
def illegalWord (opcode : BitVec 8) (s : State) : State := rejectCommand opcode .illegal s

/-- RESERVED_06_07 (44 R224). -/
def execReserved0607 (low : BitVec 1) (s : State) : Result :=
  .next (illegalWord (0x06#8 ||| low.setWidth 8) s)

/-- RESERVED_08_0F (44 R224). -/
def execReserved080F (low : BitVec 3) (s : State) : Result :=
  .next (illegalWord (0x08#8 ||| low.setWidth 8) s)

/-- RESERVED_10_1F (44 R224). -/
def execReserved101F (low : BitVec 4) (s : State) : Result :=
  .next (illegalWord (0x10#8 ||| low.setWidth 8) s)

/-- RESERVED_20_3F (44 R224). -/
def execReserved203F (low : BitVec 5) (s : State) : Result :=
  .next (illegalWord (0x20#8 ||| low.setWidth 8) s)

/-- RESERVED_40_7F (44 R224). -/
def execReserved407F (low : BitVec 6) (s : State) : Result :=
  .next (illegalWord (0x40#8 ||| low.setWidth 8) s)

/-- RESERVED_80_FF (44 R224). -/
def execReserved80FF (low : BitVec 7) (s : State) : Result :=
  .next (illegalWord (0x80#8 ||| low.setWidth 8) s)

/-- ILLEGAL_RSV (44 R224): OPCODE is recorded whatever it is. -/
def execIllegalRsv (_rsv : BitVec 24) (opcode : BitVec 8) (s : State) : Result :=
  .next (illegalWord opcode s)

end Sys2Proof.Machine
end

