-- ==== Sys2Proof/Machine/Operands.lean ====
section
/-! DEFINITION. What the instructions and accesses take as operands: the bit period (41 R150), the message
bytes and their characters (41 R142, R143), the region of a frame and its observation (42 R176, R177), and
the register a bus address names (20 R62, R63, R65). -/

namespace Sys2Proof.Machine

/-! ### Sends -/

/-- CLK_PER_MS, 1 to 4294967 (00 R11, D2; log 2). -/
def clkPerMs (s : State) : Nat := s.clkIndex.val + 1

/-- N = TX_BITDUR x CLK_PER_MS, the cycles of one period (41 R150). -/
def bitPeriod (s : State) : Nat := s.tx.bitdur.toNat * clkPerMs s

/-- What `tx_timer` holds at the start of a period: N - 1 (41 R150). -/
def timerStart (s : State) : BitVec 32 := BitVec.ofNat 32 (bitPeriod s - 1)

/-- Byte j of `txm` as seen at draw `draw` (10 R47). -/
def txByte (m : Memory) (draw j : Nat) : Byte :=
  byteOrFree m draw (Config.params.txMsgBase + j)

/-- `b & 0xC0 != 0x80`: not a UTF-8 continuation byte (41 R143). -/
def startsChar (b : Byte) : Bool := decide (b &&& 0xC0#8 ≠ 0x80#8)

/-- `Chars(m, L)` (41 R143). -/
def charCount (m : Nat → Byte) (len : Nat) : Nat :=
  (List.range len).countP fun j => startsChar (m j)

/-! ### Frames -/

/-- `cap_pix(x, y)` (20 R74; log 6). -/
def pixelAt (f : Frame) (x y : Nat) : Byte :=
  (List.lookup (x, y) f.pix).getD f.fill

/-- The first pixel of the region along an axis: `max(0, dim div 2 - HW)` (42 R176). -/
def regionFrom (dim halfw : Nat) : Nat := dim / 2 - halfw

/-- The end of the region along an axis, exclusive: `min(dim, dim div 2 + HW)` (42 R176). -/
def regionTo (dim halfw : Nat) : Nat := min dim (dim / 2 + halfw)

/-- The pixels of the region along an axis, `max(0, x1 - x0)` (42 R176). -/
def regionSide (dim halfw : Nat) : Nat := regionTo dim halfw - regionFrom dim halfw

/-- The pixel count of the region (42 R176). -/
def regionCount (f : Frame) (halfw : Nat) : Nat :=
  regionSide f.w.toNat halfw * regionSide f.h.toNat halfw

/-- The luminance sum of the region (42 R176). -/
def regionSum (f : Frame) (halfw : Nat) : Nat :=
  ((List.range (regionSide f.h.toNat halfw)).map fun dy =>
    ((List.range (regionSide f.w.toNat halfw)).map fun dx =>
      (pixelAt f (regionFrom f.w.toNat halfw + dx) (regionFrom f.h.toNat halfw + dy)).toNat).sum).sum

/-- The observed bit: 1 exactly when `sum > THRESH x cnt` (42 R177). -/
def observed (thresh : BitVec 8) (sum cnt : Nat) : Bool :=
  decide (thresh.toNat * cnt < sum)

/-! ### Bus addresses -/

/-- The registers of the map (20 R62); a window's word by its index. -/
inductive Reg where
  | id | cfg | cmd | cmdStatus | irqStatus | irqEnable | err
  | txBitdur | txLen | txStatus | txTotal | txProgress | txChars | txEstMs
  | rxStatus | rxBufLen | rxEmitCount | rxFrameCount | rxSkipCount | rxEmitSum | rxEmitCnt
  | rxDecResult | rxDecCount | rxMsgLen | rxMsgCount
  | txMsg (word : Nat)
  | rxMsg (word : Nat)
  deriving DecidableEq, Repr

/-- The single registers by byte offset (20 R62). -/
def regTable : List (Nat × Reg) :=
  [(0x000, .id), (0x004, .cfg), (0x008, .cmd), (0x00C, .cmdStatus), (0x010, .irqStatus),
   (0x014, .irqEnable), (0x018, .err),
   (0x020, .txBitdur), (0x024, .txLen), (0x028, .txStatus), (0x02C, .txTotal),
   (0x030, .txProgress), (0x034, .txChars), (0x038, .txEstMs),
   (0x040, .rxStatus), (0x044, .rxBufLen), (0x048, .rxEmitCount), (0x04C, .rxFrameCount),
   (0x050, .rxSkipCount), (0x054, .rxEmitSum), (0x058, .rxEmitCnt), (0x05C, .rxDecResult),
   (0x060, .rxDecCount), (0x064, .rxMsgLen), (0x068, .rxMsgCount)]

/-- The register at a word address, none where nothing is mapped (20 R62, R63). -/
def regAt (a : Nat) : Option Reg :=
  if Config.params.txMsgBase ≤ a ∧ a < Config.params.txMsgBase + Config.params.txBufBytes then
    some (.txMsg ((a - Config.params.txMsgBase) / 4))
  else if Config.params.rxMsgBase ≤ a ∧ a < Config.params.rxMsgBase + Config.params.rxMsgBytes then
    some (.rxMsg ((a - Config.params.rxMsgBase) / 4))
  else List.lookup a regTable

/-- The register a legal access names: four bytes, aligned, mapped (20 R63, R65). -/
def accessedReg (a : BusAccess) : Option Reg :=
  if a.size = 2#2 ∧ a.addr.toNat % 4 = 0 then regAt a.addr.toNat else none

end Sys2Proof.Machine
end

