-- ==== Sys2Proof/Machine/Codec.lean ====
section
/-! DEFINITION. BitCodec (40_codec.md): the framer and the deframer, pure functions. -/

namespace Sys2Proof.Machine

/-! ### Framer -/

/-- Raw bit r of the message: bit `7 - (r mod 8)` of byte `r div 8` (30 R81). -/
def rawBit (m : Nat → Byte) (r : Nat) : Bool :=
  (m (r / 8)).getLsbD (7 - r % 8)

/-- `FrameBit(m, L, i)` (40 R100); its domain is `i < 16 + 16 L`. -/
def frameBit (m : Nat → Byte) (len i : Nat) : Bool :=
  if i < Config.params.markerLen then Config.params.startMarker.getD i false
  else if i < Config.params.markerLen + 16 * len then
    rawBit m ((i - Config.params.markerLen) / 2) ^^ decide ((i - Config.params.markerLen) % 2 = 0)
  else Config.params.endMarker.getD (i - Config.params.markerLen - 16 * len) false

/-- The frame's length in line bits: two markers, and two line bits for each of a byte's eight raw bits
(40 R104). -/
def frameLength (len : Nat) : Nat := 2 * Config.params.markerLen + 2 * (8 * len)

/-- `Encode(m)`, the whole frame (40 R101). -/
def encodeFrame (m : List Byte) : Bits :=
  (List.range (frameLength m.length)).map (frameBit (fun j => m.getD j 0#8) m.length)

/-! ### Deframer -/

/-- Why a decode fails, in the order the checks are made (40 R121). -/
inductive FrameError where
  | missingStartMarker | missingEndMarker | oddPayloadLength
  | invalidPair (pos : Nat)
  | notByteAligned | invalidUtf8
  deriving DecidableEq, Repr

/-- The first position at or after `i` where `p` begins, `i` being the position of the first bit of `s`. -/
def findFrom (p : Bits) : Bits → Nat → Option Nat
  | [], i => if p.isPrefixOf [] then some i else none
  | b :: t, i => if p.isPrefixOf (b :: t) then some i else findFrom p t (i + 1)

/-- `find(s, p, from)` (00 R16). -/
def findBits (s p : Bits) (start : Nat) : Option Nat :=
  if start ≤ s.length then findFrom p (s.drop start) start else none

/-- The raw bits of a payload, pair by pair from payload offset `k`; the first pair that is `"00"` or
`"11"` fails (40 R116, 30 R83, R84).  A single bit left over is an odd payload (40 R114). -/
def rawBitsOf : Nat → Bits → Except FrameError Bits
  | _, [] => .ok []
  | _, [_] => .error .oddPayloadLength
  | k, a :: b :: t =>
    if a = b then .error (.invalidPair k)
    else
      match rawBitsOf (k + 2) t with
      | .ok raw => .ok (b :: raw)
      | .error e => .error e

/-- `sum over b of raw(b) x 2^(7-b)`: the first raw bit is the most significant (40 R118). -/
def byteOfBits (bs : Bits) : Byte :=
  BitVec.ofNat 8 (bs.foldl (fun n b => 2 * n + b.toNat) 0)

/-- Bytes from raw bits, eight at a time (40 R118). -/
def bytesOfRaw : Bits → List Byte
  | b0 :: b1 :: b2 :: b3 :: b4 :: b5 :: b6 :: b7 :: t =>
    byteOfBits [b0, b1, b2, b3, b4, b5, b6, b7] :: bytesOfRaw t
  | _ => []

/-- The rows of the table of 40 R119: the least and greatest value of each byte. -/
def utf8Rows : List (List (Nat × Nat)) :=
  [[(0x00, 0x7F)],
   [(0xC2, 0xDF), (0x80, 0xBF)],
   [(0xE0, 0xE0), (0xA0, 0xBF), (0x80, 0xBF)],
   [(0xE1, 0xEC), (0x80, 0xBF), (0x80, 0xBF)],
   [(0xED, 0xED), (0x80, 0x9F), (0x80, 0xBF)],
   [(0xEE, 0xEF), (0x80, 0xBF), (0x80, 0xBF)],
   [(0xF0, 0xF0), (0x90, 0xBF), (0x80, 0xBF), (0x80, 0xBF)],
   [(0xF1, 0xF3), (0x80, 0xBF), (0x80, 0xBF), (0x80, 0xBF)],
   [(0xF4, 0xF4), (0x80, 0x8F), (0x80, 0xBF), (0x80, 0xBF)]]

/-- A sequence's first bytes match a row: each byte within the row's bounds. -/
def matchesRow : List (Nat × Nat) → List Byte → Bool
  | [], _ => true
  | _ :: _, [] => false
  | (lo, hi) :: row, b :: bs => decide (lo ≤ b.toNat) && decide (b.toNat ≤ hi) && matchesRow row bs

/-- Split a sequence from its first byte into sub-sequences that match rows; `fuel` is at least its length. -/
def utf8Splits : Nat → List Byte → Bool
  | _, [] => true
  | 0, _ :: _ => false
  | fuel + 1, b :: bs =>
    match utf8Rows.find? (fun row => matchesRow row (b :: bs)) with
    | none => false
    | some row => utf8Splits fuel ((b :: bs).drop row.length)

/-- `WellFormedUtf8` (40 R119, 93 K1). -/
def wellFormedUtf8 (bs : List Byte) : Bool := utf8Splits bs.length bs

/-- The checks on a payload, in the order of 40 R110: its length, its pairs, its raw-bit count, its bytes. -/
def decodePayload (p : Bits) : Except FrameError (List Byte) :=
  if p.length % 2 = 1 then .error .oddPayloadLength
  else
    match rawBitsOf 0 p with
    | .error e => .error e
    | .ok raw =>
      if raw.length % 8 ≠ 0 then .error .notByteAligned
      else if wellFormedUtf8 (bytesOfRaw raw) then .ok (bytesOfRaw raw)
      else .error .invalidUtf8

/-- `Decode(bits)` (40 R110 to R121): the leftmost start marker, the leftmost end marker after it, the
payload between them. -/
def decodeFrame (bits : Bits) : Except FrameError (List Byte) :=
  match findBits bits Config.params.startMarker 0 with
  | none => .error .missingStartMarker
  | some s =>
    match findBits bits Config.params.endMarker (s + Config.params.endSearchFrom) with
    | none => .error .missingEndMarker
    | some e =>
      decodePayload ((bits.take e).drop (s + Config.params.markerLen))

/-- RX_DEC_RESULT.CODE of a decode (40 R121). -/
def decCodeOf : Except FrameError (List Byte) → DecCode
  | .ok _ => .ok
  | .error .missingStartMarker => .missingStartMarker
  | .error .missingEndMarker => .missingEndMarker
  | .error .oddPayloadLength => .oddPayloadLength
  | .error (.invalidPair _) => .invalidPair
  | .error .notByteAligned => .notByteAligned
  | .error .invalidUtf8 => .invalidUtf8

/-- RX_DEC_RESULT.POS of a decode: k for `InvalidPair(k)`, else 0 (43 R203). -/
def decPosOf : Except FrameError (List Byte) → BitVec 16
  | .error (.invalidPair k) => BitVec.ofNat 16 k
  | _ => 0#16

end Sys2Proof.Machine
end

