-- ==== Sys2Proof/Machine/Assembler.lean ====
section
/-! DEFINITION. FrameAssembler (43_assembler.md): the rolling bit buffer, the decode on every append, the
mailbox. -/

namespace Sys2Proof.Machine

/-- The last `k` elements of a bit sequence (00 R15). -/
def lastBits (k : Nat) (s : Bits) : Bits := s.drop (s.length - k)

/-- The buffer after an append, truncated to its latest half when over capacity (43 R201, R207). -/
def pushBit (buf : Bits) (b : Bool) : Bits :=
  if Config.params.bufCap < (buf ++ [b]).length then lastBits Config.params.bufKeep (buf ++ [b])
  else buf ++ [b]

/-- The bytes of RX_MSG after a delivery: the message, then zeros (43 R206). -/
def mailboxBytes (bytes : List Byte) : List Byte :=
  bytes ++ List.replicate (Config.params.rxMsgBytes - bytes.length) 0#8

/-- The mailbox is full: it holds as many unacknowledged messages as MAILBOX_DEPTH allows
(10 R55, 00 R12).  `msg_valid` says whether it holds one. -/
def mailboxFull (a : Asm) : Bool :=
  decide (Config.params.mailboxDepth ≤ a.msgValid.toNat)

/-- `Deliver(bytes)` (43 R206): an unacknowledged message is overwritten and the loss recorded. -/
def deliver (bytes : List Byte) (s : State) : State :=
  setIrq .rxMsg
    { (if mailboxFull s.asm then setErr .msgOverrun s else s) with
      mem := writeMem s.mem Config.params.rxMsgBase (mailboxBytes bytes)
      asm := { s.asm with
        msgLen := BitVec.ofNat 10 bytes.length
        msgValid := true
        msgCount := s.asm.msgCount + 1#32 } }

/-- The record of a decode attempt (43 R203). -/
def recordDecode (r : Except FrameError (List Byte)) (s : State) : State :=
  { s with
    asm := { s.asm with decCode := decCodeOf r, decPos := decPosOf r, decCount := s.asm.decCount + 1#32 } }

/-- A decode attempt over the buffer: a success is delivered and clears the buffer, a failure keeps it
(43 R201, R204, R205). -/
def attemptDecode (s : State) : State :=
  match decodeFrame s.asm.buf with
  | .error e => recordDecode (.error e) s
  | .ok bytes =>
    let s := deliver bytes (recordDecode (.ok bytes) s)
    { s with asm := { s.asm with buf := [] } }

/-- `APPEND(b)` (43 R201, R202): append, truncate, then decode if the buffer is long enough (R208). -/
def append (b : Bool) (s : State) : State :=
  let s := { s with asm := { s.asm with buf := pushBit s.asm.buf b } }
  if Config.params.minDecodeLen ≤ s.asm.buf.length then attemptDecode s else s

/-- The assembler phase (60 R250): it acts only when the RX phase emitted a bit (43 R201, 10 R58). -/
def assemblerPhase (pending : Option Bool) (s : State) : State :=
  match pending with
  | none => s
  | some b => append b s

/-- The assembler phases of as many cycles as there are bits, one bit a cycle. -/
def appendAll (bs : Bits) (s : State) : State :=
  bs.foldl (fun s b => append b s) s

end Sys2Proof.Machine
end

