-- ==== Sys2Proof/Machine/Sampler.lean ====
section
/-! DEFINITION. SignalSampler (42_sampler.md): the receive session, and the capture events with the
threshold and the debounce.  An event's meaning is the RX phase and the assembler phase of its cycle. -/

namespace Sys2Proof.Machine

/-! ### Session commands -/

/-- RX_START (42 R170): accepted in IDLE only; the session starts with an empty buffer and no candidate. -/
def execRxStart (s : State) : Result :=
  if s.rx.session = .idle then
    .next (cmdResult 0x03#8 .accepted
      { s with
        rx := { s.rx with
          session := .opening
          hold := true
          candValid := false
          candVal := false
          candRun := 0#8
          emitCount := 0#32
          frameCount := 0#32
          skipCount := 0#32 }
        asm := { s.asm with buf := [], decCount := 0#32, decCode := .none, decPos := 0#16 } })
  else .next (cmdResult 0x03#8 .ignoredBusy s)

/-- RX_STOP (42 R175). -/
def execRxStop (s : State) : Result :=
  .next (cmdResult 0x04#8 .accepted
    (if s.rx.session = .idle then s
     else { s with rx := { s.rx with session := .idle, hold := false } }))

/-! ### Events without a frame -/

/-- EVT_NONE (30 R90): no event this cycle. -/
def execEvtNone (s : State) : Result := .next s

/-- EVT_OPEN_OK (42 R171). -/
def execEvtOpenOk (s : State) : Result :=
  if s.rx.session = .opening then .next { s with rx := { s.rx with session := .active } }
  else .next s

/-- EVT_OPEN_FAIL (42 R172). -/
def execEvtOpenFail (s : State) : Result :=
  if s.rx.session = .opening then .next (failSession .devUnavailable s) else .next s

/-- A skipped frame is counted and nothing else (42 R173, R178). -/
def countSkip (s : State) : State :=
  { s with rx := { s.rx with skipCount := s.rx.skipCount + 1#32 } }

/-- EVT_FRAME_FAIL (42 R173). -/
def execEvtFrameFail (s : State) : Result :=
  if s.rx.session = .active then .next (countSkip s) else .next s

/-- EVT_FATAL (42 R174). -/
def execEvtFatal (s : State) : Result :=
  if s.rx.session = .idle then .next s else .next (failSession .captureFault s)

/-- EVT_RESERVED, codes 6 and 7: ignored (42 R179). -/
def execEvtReserved (_low : BitVec 1) (s : State) : Result := .next s

/-! ### FRAME -/

/-- `Emit(b, sum, cnt)` less the hand-over of the bit (42 R182). -/
def emit (b : Bool) (sum cnt : Nat) (s : State) : State :=
  setIrq .rxBit
    { s with
      rx := { s.rx with
        lastEmit := b
        emitCount := s.rx.emitCount + 1#32
        emitSum := BitVec.ofNat 32 sum
        emitCnt := BitVec.ofNat 32 cnt } }

/-- The candidate becomes (value, run). -/
def setCandidate (val : Bool) (run : BitVec 8) (s : State) : State :=
  { s with rx := { s.rx with candValid := true, candVal := val, candRun := run } }

/-- A run one longer, saturating at RUN_MAX (42 R180). -/
def nextRun (run : BitVec 8) : BitVec 8 :=
  BitVec.ofNat 8 (min (run.toNat + 1) Config.params.runMax)

/-- The run is long enough to be emitted: `cand_run >= max(STABLE, 1)` (42 R181). -/
def stableRun (stable run : BitVec 8) : Bool :=
  decide (max stable.toNat 1 ≤ run.toNat)

/-- `Debounce(obs, sum, cnt)` (42 R180): the state after it and the bit it emits, `pending_bit`. -/
def debounce (obs : Bool) (sum cnt : Nat) (s : State) : State × Option Bool :=
  if !s.rx.candValid then (setCandidate obs 1#8 s, none)
  else if obs = s.rx.candVal then (setCandidate obs (nextRun s.rx.candRun) s, none)
  else if stableRun s.cfg.stable s.rx.candRun then
    (setCandidate obs 1#8 (emit s.rx.candVal sum cnt s), some s.rx.candVal)
  else (setCandidate obs 1#8 s, none)

/-- The frame is counted (42 R178). -/
def countFrame (s : State) : State :=
  { s with rx := { s.rx with frameCount := s.rx.frameCount + 1#32 } }

/-- `last_obs <- obs` (42 R178). -/
def setLastObs (obs : Bool) (s : State) : State :=
  { s with rx := { s.rx with lastObs := obs } }

/-- A FRAME event in ACTIVE (42 R178): count, sum the region, skip it if empty, observe, debounce. -/
def sampleFrame (f : Frame) (s : State) : State × Option Bool :=
  let s := countFrame s
  let cnt := regionCount f s.cfg.halfw.toNat
  if cnt = 0 then (countSkip s, none)
  else
    let sum := regionSum f s.cfg.halfw.toNat
    let obs := observed s.cfg.thresh sum cnt
    debounce obs sum cnt (setLastObs obs s)

/-- EVT_FRAME (42 R176 to R182, 43 R201): outside ACTIVE it is ignored and not counted (R179). -/
def execEvtFrame (frame : Frame) (s : State) : Result :=
  if s.rx.session = .active then
    .next (assemblerPhase (sampleFrame frame s).2 (sampleFrame frame s).1)
  else .next s

end Sys2Proof.Machine
end

