-- ==== Sys2Proof/Machine/Transmit.lean ====
section
/-! DEFINITION. TransmitDriver (41_transmit.md): TX_SEND, TX_STOP, the TX phase and the bit-rate timer. -/

namespace Sys2Proof.Machine

/-- The line bit `i` of the running send's frame: its bytes are the window's, and where nothing was
written those of the draw made at acceptance (41 R142, 93 U1). -/
def sendBit (s : State) (draw i : Nat) : Bool :=
  frameBit (txByte s.mem draw) s.tx.len.toNat i

/-- `(sent x 100) div total` (10 R33, 41 R151). -/
def progressPct (sent total : Nat) : BitVec 7 := BitVec.ofNat 7 (sent * 100 / total)

/-- An accepted send of `chars` characters (41 R140, R145).  `draw` gives the bytes never written. -/
def acceptSend (chars draw : Nat) (s : State) : State :=
  let total := frameLength s.tx.len.toNat
  setIrq .txBit (cmdResult 0x01#8 .accepted
    { s with
      tx := { s.tx with
        total := BitVec.ofNat 16 total
        chars := BitVec.ofNat 16 chars
        estMs := BitVec.ofNat 32 (total * s.tx.bitdur.toNat)
        busy := true
        phase := .bits
        cancel := false
        acquire := true
        bitIndex := 0#16
        level := sendBit s draw 0
        sent := 1#16
        pct := progressPct 1 total
        timer := timerStart s
        draw := draw } })

/-- The bit duration is one TX_SEND accepts (41 R141). -/
def validBitdur (d : BitVec 16) : Bool :=
  decide (Config.params.bitdurMin ≤ d.toNat) && decide (d.toNat ≤ Config.params.bitdurMax)

/-- The characters of the loaded message as TX_SEND counts them at draw `draw` (41 R143). -/
def sendChars (s : State) (draw : Nat) : Nat :=
  charCount (txByte s.mem draw) s.tx.len.toNat

/-- `TX_SEND` with its checks in the order of 41 R144.  A count and a send draw the bytes never written
afresh (10 R47; log 3). -/
def txSend (s : State) : State :=
  if s.tx.busy then cmdResult 0x01#8 .ignoredBusy s
  else if !validBitdur s.tx.bitdur then rejectCommand 0x01#8 .invalidBitDuration s
  else if Config.params.txBufBytes < s.tx.len.toNat then rejectCommand 0x01#8 .msgTooLong s
  else if Config.params.txMaxChars < sendChars s s.freshDraw then
    rejectCommand 0x01#8 .msgTooLong { s with freshDraw := s.freshDraw + 1 }
  else
    acceptSend (sendChars s s.freshDraw) (s.freshDraw + 1) { s with freshDraw := s.freshDraw + 2 }

/-- TX_SEND (41 R140). -/
def execTxSend (s : State) : Result := .next (txSend s)

/-- TX_STOP (41 R146, R147): the cancel flag, only while a send runs. -/
def execTxStop (s : State) : Result :=
  .next (cmdResult 0x02#8 .accepted
    (if s.tx.busy then { s with tx := { s.tx with cancel := true } } else s))

/-! ### The TX phase -/

/-- The next line bit lies in the frame of the send: what a running send always satisfies (40 R100). -/
def nextBitInFrame (t : Tx) : Bool :=
  decide (t.len.toNat ≤ Config.params.txBufBytes) && decide (t.total.toNat = frameLength t.len.toNat)
    && decide (t.bitIndex.toNat + 1 < t.total.toNat)

/-- The next bit starts (41 R151, second branch). -/
def startNextBit (s : State) : State :=
  let i := s.tx.bitIndex.toNat + 1
  setIrq .txBit
    { s with
      tx := { s.tx with
        bitIndex := BitVec.ofNat 16 i
        level := sendBit s s.tx.draw i
        sent := BitVec.ofNat 16 (i + 1)
        pct := progressPct (i + 1) s.tx.total.toNat
        timer := timerStart s } }

/-- The bit on the line is the frame's last. -/
def onLastBit (t : Tx) : Bool := decide (t.bitIndex.toNat + 1 = t.total.toNat)

/-- The guard starts (41 R151, first branch): COMPLETED when the frame's last bit was driven. -/
def startGuard (s : State) : State :=
  { s with
    tx := { s.tx with
      lastEnd := if onLastBit s.tx then .completed else .cancelled
      phase := .guard
      level := false
      timer := timerStart s } }

/-- The send ends with its guard (41 R152). -/
def endSend (s : State) : State :=
  setIrq .txDone
    { s with
      tx := { s.tx with busy := false, phase := .bits, cancel := false, acquire := false, level := false } }

/-- `PeriodEnd()` (41 R150 to R152). -/
def periodEnd (s : State) : Result :=
  match s.tx.phase with
  | .guard => .next (endSend s)
  | .bits =>
    if s.tx.cancel || onLastBit s.tx then .next (startGuard s)
    else if nextBitInFrame s.tx then .next (startNextBit s)
    else .fault .sequencerOutsideFrame

/-- The TX phase of a cycle (41 R149, R150); `busyAtStart` is `tx_busy` at the start of the cycle. -/
def txPhase (busyAtStart : Bool) (s : State) : Result :=
  if busyAtStart then
    if s.tx.timer = 0#32 then periodEnd s
    else .next { s with tx := { s.tx with timer := s.tx.timer - 1#32 } }
  else .next s

/-- The TX phases of `n` cycles that present no bus access. -/
def txPhases : Nat → State → Result
  | 0, s => .next s
  | n + 1, s => chain (txPhase s.tx.busy s) (txPhases n)

end Sys2Proof.Machine
end

