-- ==== Sys2Proof/Machine/Wire.lean ====
section
/-! DEFINITION. The wire symbols as instructions (30 R80, R83, R84): a symbol's line bits, first-sent
first, reach the frame assembler, one APPEND a bit (43 R201; log 5).  What a symbol means to the deframer
is in `decodeFrame` (40 R111 to R116). -/

namespace Sys2Proof.Machine

/-- START_MARKER (30 R80). -/
def execStartMarker (s : State) : Result :=
  .next (appendAll Config.params.startMarker s)

/-- END_MARKER (30 R80). -/
def execEndMarker (s : State) : Result :=
  .next (appendAll Config.params.endMarker s)

/-- PAIR_RAW0, the pair `"10"` (30 R83). -/
def execPairRaw0 (s : State) : Result := .next (appendAll [true, false] s)

/-- PAIR_RAW1, the pair `"01"` (30 R83). -/
def execPairRaw1 (s : State) : Result := .next (appendAll [false, true] s)

/-- PAIR_INVALID_00 (30 R84): a decode that takes these bits as a pair fails with InvalidPair (40 R116). -/
def execPairInvalid00 (s : State) : Result := .next (appendAll [false, false] s)

/-- PAIR_INVALID_11 (30 R84): as PAIR_INVALID_00. -/
def execPairInvalid11 (s : State) : Result := .next (appendAll [true, true] s)

end Sys2Proof.Machine
end

