-- ==== Sys2Proof/Machine/Dispatch.lean ====
section
/-! DEFINITION. The meaning of every instruction, one arm per constructor. -/

namespace Sys2Proof.Machine

/-- An instruction's own effect: a command's in the bus phase, an event's in the RX and assembler phases, a
wire symbol's in the assembler phases of its bits (60 R250). -/
def exec (i : Instr) (s : State) : Host.Outcome State Fault Refusal :=
  match i with
  | .nop => Sys2Proof.Machine.execNop s
  | .txSend => Sys2Proof.Machine.execTxSend s
  | .txStop => Sys2Proof.Machine.execTxStop s
  | .rxStart => Sys2Proof.Machine.execRxStart s
  | .rxStop => Sys2Proof.Machine.execRxStop s
  | .rxMsgAck => Sys2Proof.Machine.execRxMsgAck s
  | .reserved0607 low => Sys2Proof.Machine.execReserved0607 low s
  | .reserved080F low => Sys2Proof.Machine.execReserved080F low s
  | .reserved101F low => Sys2Proof.Machine.execReserved101F low s
  | .reserved203F low => Sys2Proof.Machine.execReserved203F low s
  | .reserved407F low => Sys2Proof.Machine.execReserved407F low s
  | .reserved80FF low => Sys2Proof.Machine.execReserved80FF low s
  | .illegalRsv rsv opcode => Sys2Proof.Machine.execIllegalRsv rsv opcode s
  | .evtNone => Sys2Proof.Machine.execEvtNone s
  | .evtOpenOk => Sys2Proof.Machine.execEvtOpenOk s
  | .evtOpenFail => Sys2Proof.Machine.execEvtOpenFail s
  | .evtFrame frame => Sys2Proof.Machine.execEvtFrame frame s
  | .evtFrameFail => Sys2Proof.Machine.execEvtFrameFail s
  | .evtFatal => Sys2Proof.Machine.execEvtFatal s
  | .evtReserved low => Sys2Proof.Machine.execEvtReserved low s
  | .startMarker => Sys2Proof.Machine.execStartMarker s
  | .endMarker => Sys2Proof.Machine.execEndMarker s
  | .pairRaw0 => Sys2Proof.Machine.execPairRaw0 s
  | .pairRaw1 => Sys2Proof.Machine.execPairRaw1 s
  | .pairInvalid00 => Sys2Proof.Machine.execPairInvalid00 s
  | .pairInvalid11 => Sys2Proof.Machine.execPairInvalid11 s

end Sys2Proof.Machine
end

