-- ==== Sys2Proof/Machine/Bus.lean ====
section
/-! DEFINITION. The bus phase (20 R61 to R67): reads, writes and commands of the host. -/

namespace Sys2Proof.Machine

/-- Decode and run what a port carries. -/
def runCode (c : Code) (s : State) : Result :=
  match decode c with
  | .ok i => exec i s
  | .error .notAWireSymbol => .refused .unknownSymbol

/-- The byte address of word `k` of a window. -/
def txWordAddr (k : Nat) : Nat := Config.params.txMsgBase + 4 * k

/-- The byte address of word `k` of a window. -/
def rxWordAddr (k : Nat) : Nat := Config.params.rxMsgBase + 4 * k

/-- The value a legal read answers (20 R66, 10 R22 to R48).  A window's bytes that nothing has written
take the values of the state's next draw. -/
def readReg (r : Reg) (s : State) : Word :=
  match r with
  | .id => Config.params.idValue
  | .cfg => cfgWord s.cfg
  | .cmd => 0#32
  | .cmdStatus => cmdStatusWord s.cmdStatus
  | .irqStatus => s.irqStatus.setWidth 32
  | .irqEnable => s.irqEnable.setWidth 32
  | .err => s.err.setWidth 32
  | .txBitdur => s.tx.bitdur.setWidth 32
  | .txLen => s.tx.len.setWidth 32
  | .txStatus => txStatusWord s.tx
  | .txTotal => s.tx.total.setWidth 32
  | .txProgress => txProgressWord s.tx
  | .txChars => s.tx.chars.setWidth 32
  | .txEstMs => s.tx.estMs
  | .rxStatus => rxStatusWord s.rx s.asm
  | .rxBufLen => rxBufLenWord s.asm
  | .rxEmitCount => s.rx.emitCount
  | .rxFrameCount => s.rx.frameCount
  | .rxSkipCount => s.rx.skipCount
  | .rxEmitSum => s.rx.emitSum
  | .rxEmitCnt => s.rx.emitCnt
  | .rxDecResult => rxDecResultWord s.asm
  | .rxDecCount => s.asm.decCount
  | .rxMsgLen => s.asm.msgLen.setWidth 32
  | .rxMsgCount => s.asm.msgCount
  | .txMsg k => wordAt s.mem s.freshDraw (txWordAddr k)
  | .rxMsg k => wordAt s.mem s.freshDraw (rxWordAddr k)

/-- The draw a read uses up: a window read draws afresh at each read (10 R47, R48; log 3). -/
def takeDraw (r : Reg) (s : State) : State :=
  match r with
  | .txMsg _ | .rxMsg _ => { s with freshDraw := s.freshDraw + 1 }
  | _ => s

/-- A legal read: the value at the start of the cycle, no side effect (20 R61, R66). -/
def readAccess (r : Reg) (s : State) : State :=
  takeDraw r (respond (readReg r s) false s)

/-- CFG written whole (10 R23). -/
def writeCfg (w : Word) (s : State) : State :=
  { s with cfg := ⟨w.extractLsb' 0 8, w.extractLsb' 8 8, w.extractLsb' 16 8⟩ }

/-- A write that the transmit lock ignores while a send runs (41 R148). -/
def unlessBusy (s t : State) : State := if s.tx.busy then s else t

/-- A legal write (20 R66).  Read-only registers and reserved bits ignore it; a write to CMD is a
command (44 R220). -/
def writeReg (r : Reg) (w : Word) (s : State) : Result :=
  match r with
  | .cmd => runCode (.cmd w) s
  | .cfg => .next (writeCfg w s)
  | .irqStatus => .next (clearIrq w s)
  | .irqEnable => .next { s with irqEnable := w.setWidth 6 }
  | .err => .next (clearErr w s)
  | .txBitdur => .next (unlessBusy s { s with tx := { s.tx with bitdur := w.setWidth 16 } })
  | .txLen => .next (unlessBusy s { s with tx := { s.tx with len := w.setWidth 16 } })
  | .txMsg k => .next (unlessBusy s { s with mem := writeMem s.mem (txWordAddr k) (bytesOfWord w) })
  | .id | .cmdStatus | .txStatus | .txTotal | .txProgress | .txChars | .txEstMs => .next s
  | .rxStatus | .rxBufLen | .rxEmitCount | .rxFrameCount | .rxSkipCount | .rxEmitSum => .next s
  | .rxEmitCnt | .rxDecResult | .rxDecCount | .rxMsgLen | .rxMsgCount | .rxMsg _ => .next s

/-- The bus phase of a cycle with `rst = 0` (60 R250).  An access that is not legal gets `bus_err = 1`,
`bus_rdata = 0` and changes nothing (20 R63, R65). -/
def busPhase (a : Option BusAccess) (s : State) : Result :=
  match a with
  | none => .next (noResponse s)
  | some a =>
    match accessedReg a with
    | none => .next (respond 0#32 true s)
    | some r => if a.write then writeReg r a.wdata (respond 0#32 false s) else .next (readAccess r s)

end Sys2Proof.Machine
end

