-- ==== Sys2Proof/Machine/Cycle.lean ====
section
/-! DEFINITION. One step: the four phases of a clock cycle in their order (60 R250), a reset cycle
(70 R270), or the cycles of a wire symbol (log 5); and how an instruction is placed as the next input. -/

namespace Sys2Proof.Machine

/-- A cycle in which the outside presents nothing. -/
def idleCycle : Cycle := ⟨false, none, 0#3, Frame.empty⟩

/-- A reset cycle (70 R270): an access in it has no effect and gets `bus_rdata = 0`, `bus_err = 0`. -/
def resetCycle (c : Cycle) (s : State) : State :=
  match c.bus with
  | none => noResponse (resetRegisters s)
  | some _ => respond 0#32 false (resetRegisters s)

/-- The four phases (60 R250): bus; TX, if `tx_busy` was 1 at the start of the cycle (41 R149); RX with the
cycle's event, and the assembler with the bit it emits. -/
def runCycle (c : Cycle) (s : State) : Result :=
  if c.rst then .next (resetCycle c s)
  else
    chain (chain (busPhase c.bus s) (txPhase s.tx.busy)) (runCode (.evt c.evt c.frame))

/-- The cycles of a wire symbol, one line bit a cycle, with no access and no event in them: their TX
phases, which share no state with the assembler (60 R250), and the symbol's appends (log 5). -/
def runSymbol (bits : Bits) (s : State) : Result :=
  chain (txPhases bits.length (noResponse s)) (runCode (.wire bits))

/-- One step on the next entry of the script; with none left, a cycle in which nothing is presented. -/
def stepInputs (s : State) : Result :=
  match s.inputs with
  | [] => runCycle idleCycle s
  | .cycle c :: rest => runCycle c { s with inputs := rest }
  | .symbol bits :: rest => runSymbol bits { s with inputs := rest }

/-- The host access that writes a word to CMD (30 R94: `CMD mnemonic`). -/
def cmdAccess (w : Word) : BusAccess := ⟨true, BitVec.ofNat _ 0x008, 2#2, w⟩

/-- The script entry that presents a code and nothing else. -/
def inputOf : Code → Input
  | .cmd w => .cycle { idleCycle with bus := some (cmdAccess w) }
  | .evt code frame => .cycle { idleCycle with evt := code, frame := frame }
  | .wire bits => .symbol bits

/-- The entry that presents a word of the opcode table; a word of no row's size is no symbol. -/
def tableInput (nbits w : Nat) : Input :=
  match tableCode nbits w with
  | some c => inputOf c
  | none => .symbol []

end Sys2Proof.Machine
end

