-- ==== Sys2Proof/Machine/Step.lean ====
section
/-! DEFINITION. The step of the machine, and placing an instruction where it takes the next one from. -/

namespace Sys2Proof.Machine

/-- One step: one clock cycle of the block (60 R250, D1), on the next entry of `inputs`. -/
def step (s : State) : Host.Outcome State Fault Refusal :=
  stepInputs s

/-- The state whose next step is presented the instruction of this opcode-table word: in front of the
script, a cycle that presents it and nothing else (log 1). -/
def State.withFetchWord (s : State) (nbits w : Nat) : State :=
  { s with inputs := tableInput nbits w :: s.inputs }

end Sys2Proof.Machine
end

