-- ==== Sys2Proof/Safety.lean ====
section
/-! DEFINITION. The invariants of the block, and the words the claims are said in: the symbols of a frame,
runs of instructions and frames, the debounce law's runs. -/

namespace Sys2Proof.Machine

/-! ### Invariants -/

/-- The bytes of TX_MSG (20 R62). -/
def inTxWindow (a : Nat) : Prop := 0x1000 ≤ a ∧ a < 0x17D0

/-- The bytes of RX_MSG (20 R62). -/
def inRxWindow (a : Nat) : Prop := 0x2000 ≤ a ∧ a < 0x2270

/-- The memory is in canonical form and lists bytes of the two windows only. -/
def MemInv (s : State) : Prop :=
  s.mem.wf ∧ ∀ c ∈ s.mem, inTxWindow c.1 ∨ inRxWindow c.1

/-- An idle sequencer holds nothing and drives Low (41 R152, 20 R73). -/
def TxIdle (t : Tx) : Prop :=
  t.level = false ∧ t.acquire = false ∧ t.phase = .bits ∧ t.cancel = false

/-- A running send: its operands passed TX_SEND's checks and are locked, the sequencer is inside the
frame and inside a period, and in the BITS phase the line shows the frame's bit
(41 R140, R148, R150, R151, R157). -/
structure TxRunning (s : State) : Prop where
  acquired : s.tx.acquire = true
  bitdur : 50 ≤ s.tx.bitdur.toNat ∧ s.tx.bitdur.toNat ≤ 1000
  len : s.tx.len.toNat ≤ 2000
  total : s.tx.total.toNat = 16 + 16 * s.tx.len.toNat
  index : s.tx.bitIndex.toNat < s.tx.total.toNat
  sent : s.tx.sent.toNat = s.tx.bitIndex.toNat + 1
  pct : s.tx.pct.toNat = s.tx.sent.toNat * 100 / s.tx.total.toNat
  timer : s.tx.timer.toNat < bitPeriod s
  guardLow : s.tx.phase = .guard → s.tx.level = false
  bitShown : s.tx.phase = .bits → s.tx.level = sendBit s s.tx.draw s.tx.bitIndex.toNat

/-- The TX side is idle or runs a send. -/
def TxInv (s : State) : Prop :=
  (s.tx.busy = false → TxIdle s.tx) ∧ (s.tx.busy = true → TxRunning s)

/-- `cap_hold` is 1 exactly in OPENING and ACTIVE (10 R52); without a candidate its fields are 0, and a
candidate has a run of at least 1 (42 R170, R180). -/
def RxInv (r : Rx) : Prop :=
  (r.hold = true ↔ r.session ≠ .idle) ∧
  (r.candValid = false → r.candVal = false ∧ r.candRun = 0#8) ∧
  (r.candValid = true → 1 ≤ r.candRun.toNat)

/-- The buffer and the mailbox keep their bounds (43 R209, 10 R45), and POS is 0 but for InvalidPair
(10 R43). -/
def AsmInv (a : Asm) : Prop :=
  a.buf.length ≤ 10000 ∧ a.msgLen.toNat ≤ 624 ∧ (a.decCode ≠ .invalidPair → a.decPos = 0#16)

/-- What every state that a run reaches satisfies. -/
def Inv (s : State) : Prop :=
  MemInv s ∧ TxInv s ∧ RxInv s.rx ∧ AsmInv s.asm

/-- Every `symbol` entry of the script is a wire symbol of the opcode table. -/
def ScriptDecodes (s : State) : Prop :=
  ∀ bits, Input.symbol bits ∈ s.inputs → ∃ i, decodeSymbol bits = .ok i

/-! ### Kinds of instructions -/

/-- The six commands of 30 R87. -/
def isCommand : Instr → Bool
  | .nop | .txSend | .txStop | .rxStart | .rxStop | .rxMsgAck => true
  | _ => false

/-- The illegal command words of 30 R88. -/
def isIllegalWord : Instr → Bool
  | .reserved0607 _ | .reserved080F _ | .reserved101F _ | .reserved203F _ | .reserved407F _ => true
  | .reserved80FF _ | .illegalRsv _ _ => true
  | _ => false

/-- The capture events of 30 R90. -/
def isEvent : Instr → Bool
  | .evtNone | .evtOpenOk | .evtOpenFail | .evtFrame _ | .evtFrameFail | .evtFatal => true
  | .evtReserved _ => true
  | _ => false

/-- The line bits of a wire symbol, first-sent first (30 R80, R83, R84); none for another instruction. -/
def symbolBits : Instr → Option Bits
  | .startMarker => some [true, true, true, true, false, false, false, false]
  | .endMarker => some [false, false, false, false, true, true, true, true]
  | .pairRaw0 => some [true, false]
  | .pairRaw1 => some [false, true]
  | .pairInvalid00 => some [false, false]
  | .pairInvalid11 => some [true, true]
  | _ => none

/-! ### Frames as symbols -/

/-- The pairs of a byte, most significant bit first (30 R81, R83). -/
def byteSymbols (b : Byte) : List Instr :=
  (List.range 8).map fun k => if b.getLsbD (7 - k) then .pairRaw1 else .pairRaw0

/-- The payload of a message as symbols (30 R80). -/
def payloadSymbols (m : List Byte) : List Instr := m.flatMap byteSymbols

/-- The frame of a message as symbols (30 R80). -/
def frameSymbols (m : List Byte) : List Instr :=
  .startMarker :: (payloadSymbols m ++ [.endMarker])

/-- The line bits of a sequence of symbols. -/
def bitsOfSymbols (is : List Instr) : Bits := is.flatMap fun i => (symbolBits i).getD []

/-- `p` begins at position `i` of `s` (00 R16). -/
def occursAt (s p : Bits) (i : Nat) : Prop :=
  i + p.length ≤ s.length ∧ (s.drop i).take p.length = p

/-- One instruction's own effect after another. -/
def execAll : List Instr → State → Result
  | [], s => .next s
  | i :: is, s => chain (exec i s) (execAll is)

/-! ### The debounce law -/

/-- The RX phases of the FRAME events of a session, with the bits they emit in order. -/
def sampleAll : List Frame → State → State × Bits
  | [], s => (s, [])
  | f :: fs, s =>
    let r := sampleAll fs (sampleFrame f s).1
    (r.1, (sampleFrame f s).2.toList ++ r.2)

/-- The observations of frames: none for a frame whose region is empty (42 R178, R183). -/
def observationsOf (c : Cfg) (fs : List Frame) : Bits :=
  fs.filterMap fun f =>
    if regionCount f c.halfw.toNat = 0 then none
    else some (observed c.thresh (regionSum f c.halfw.toNat) (regionCount f c.halfw.toNat))

/-- The maximal runs of equal values, each with its value and length (42 R183). -/
def runsOf : Bits → List (Bool × Nat)
  | [] => []
  | b :: t =>
    match runsOf t with
    | [] => [(b, 1)]
    | (c, n) :: rs => if b = c then (c, n + 1) :: rs else (b, 1) :: (c, n) :: rs

/-- The bits 42 R183 says a session emits: the value of every run but the last that is at least
`max(STABLE, 1)` long. -/
def stableBits (stable : BitVec 8) (obs : Bits) : Bits :=
  ((runsOf obs).dropLast.filter fun r => decide (max stable.toNat 1 ≤ r.2)).map (·.1)

/-! ### Host accesses -/

/-- A four-byte read of a byte offset. -/
def readOf (a : BitVec 16) : BusAccess := ⟨false, a, 2#2, 0#32⟩

/-- A four-byte write to a byte offset. -/
def writeOf (a : BitVec 16) (w : Word) : BusAccess := ⟨true, a, 2#2, w⟩

/-- The access reads `v` and has no other effect: the bus phase changes the response alone. -/
def Reads (s : State) (a : BitVec 16) (v : Word) : Prop :=
  busPhase (some (readOf a)) s = .next { s with busResp := some ⟨v, false⟩ }

/-- A write that gets no error and leaves `t`, but for the response.  What `bus_rdata` shows beside a write
is left open (log 4). -/
def Writes (s : State) (a : BitVec 16) (w : Word) (t : State) : Prop :=
  ∃ v, busPhase (some (writeOf a w)) s = .next { t with busResp := some ⟨v, false⟩ }

/-- A cycle without reset in which the host writes a word to CMD and the capture device presents an event. -/
def cmdCycle (w : Word) (e : BitVec 3) (f : Frame) : Cycle := ⟨false, some (writeOf 0x008#16 w), e, f⟩

/-- The cycle writes this word to CMD, in a legal access. -/
def writesCmd (c : Cycle) (w : Word) : Prop :=
  ∃ a, c.bus = some a ∧ a.write = true ∧ accessedReg a = some .cmd ∧ a.wdata = w

/-- A script of clock cycles without reset, whatever else they present (log 1). -/
def CyclesOnly (script : List Input) : Prop :=
  ∀ x ∈ script, ∃ c, x = .cycle c ∧ c.rst = false

/-- No cycle of the script writes this word to CMD. -/
def NeverCommands (w : Word) (script : List Input) : Prop :=
  ∀ c, .cycle c ∈ script → ¬ writesCmd c w

/-- The aligned byte addresses 20 R63 names as unmapped. -/
def unmappedAddr (a : Nat) : Prop :=
  a = 0x01C ∨ a = 0x03C ∨ (0x06C ≤ a ∧ a ≤ 0x0FFF) ∨ (0x17D0 ≤ a ∧ a ≤ 0x1FFF) ∨ 0x2270 ≤ a

/-- The cycle writes the register, and the write is legal. -/
def writesReg (c : Cycle) (r : Reg) : Prop :=
  ∃ a, c.bus = some a ∧ a.write = true ∧ accessedReg a = some r

end Sys2Proof.Machine
end

