-- ==== Sys2Proof/Certificates/Slice0/Obligations.lean ====
section
/-! DEFINITION. The statements for the provers.  OBLIGATIONS.json says which rules of spec/ each rests on. -/

open Sys2Proof Sys2Proof.Machine

/-! ## Encodings -/

/-- 30 R86 to R90, R80, R83, R84: no bit of an encoding is dropped. -/
def Obligations.DecodeOfEncodeIsTheInstruction : Prop :=
  ∀ i : Instr, i.wellFormed = true → decode (encode i) = .ok i

/-- 30 R86, R88, R90: every command word and every event code is one well-formed instruction, whose
encoding is that word or code; only FRAME takes the frame beside the code. -/
def Obligations.EveryCodeIsOneInstruction : Prop :=
  (∀ w : Word, ∃ i, decode (.cmd w) = .ok i ∧ i.wellFormed = true ∧ encode i = .cmd w) ∧
  ∀ (code : BitVec 3) (f : Frame), ∃ i g, decode (.evt code f) = .ok i ∧
    (f.wellFormed = true → i.wellFormed = true) ∧ encode i = .evt code g ∧
    ((∃ f', i = .evtFrame f') ↔ code = 3#3) ∧ (code = 3#3 → i = .evtFrame f)

/-- The wire symbols are the six of 30 R80, R83 and R84.  That bits are presented to the model as symbols,
and that bits which are none of the six are refused, is the model's choice (log 5): the spec gives patterns
on the line and no port that refuses. -/
def Obligations.WireSymbolsAreExactlySix : Prop :=
  ∀ (bits : Bits) (i : Instr), (decode (.wire bits) = .ok i ↔ encode i = .wire bits) ∧
    (encode i = .wire bits ↔ symbolBits i = some bits)

/-- 30 R88, 44 R224: a word is illegal exactly when RSV is not 0 or OPCODE is at least 6, and it performs
nothing but the ILLEGAL result, code 5. -/
def Obligations.IllegalWordsPerformOnlyTheIllegalResult : Prop :=
  cmdCodeBits .illegal = 5#4 ∧ ∀ (w : Word) (s : State),
    ((w.extractLsb' 8 24 ≠ 0#24 ∨ 6 ≤ (w.setWidth 8).toNat) →
      ∃ i, decode (.cmd w) = .ok i ∧ isIllegalWord i = true ∧
        exec i s = .next { s with
          cmdStatus := ⟨.illegal, w.setWidth 8⟩, irqStatus := s.irqStatus ||| 0x20#6 }) ∧
    (¬ (w.extractLsb' 8 24 ≠ 0#24 ∨ 6 ≤ (w.setWidth 8).toNat) →
      ∃ i, decode (.cmd w) = .ok i ∧ isCommand i = true)

/-- Words of 30 R87, R90, R80, R83 and R84 written out. -/
def Obligations.WordsOfTheTablesDecode : Prop :=
  decode (.cmd 0x00000000#32) = .ok .nop ∧ decode (.cmd 0x00000001#32) = .ok .txSend ∧
  decode (.cmd 0x00000002#32) = .ok .txStop ∧ decode (.cmd 0x00000003#32) = .ok .rxStart ∧
  decode (.cmd 0x00000004#32) = .ok .rxStop ∧ decode (.cmd 0x00000005#32) = .ok .rxMsgAck ∧
  decode (.cmd 0x00000101#32) = .ok (.illegalRsv 1#24 1#8) ∧
  decode (.evt 0#3 Frame.empty) = .ok .evtNone ∧ decode (.evt 5#3 Frame.empty) = .ok .evtFatal ∧
  decode (.wire [true, true, true, true, false, false, false, false]) = .ok .startMarker ∧
  decode (.wire [true, false]) = .ok .pairRaw0 ∧ decode (.wire [false, true]) = .ok .pairRaw1

/-! ## Commands -/

/-- 44 R222 and R223: NOP and RX_MSG_ACK, with their command words; and a FRAME event in the cycle of an
RX_MSG_ACK: a message it delivers is no overrun and stays valid. -/
def Obligations.NopAndMessageAckResult : Prop :=
  decode (.cmd 0x00000000#32) = .ok .nop ∧ decode (.cmd 0x00000005#32) = .ok .rxMsgAck ∧
  ∀ s : State,
    exec .nop s = .next { s with cmdStatus := ⟨.accepted, 0x00#8⟩ } ∧
    exec .rxMsgAck s = .next { s with
      cmdStatus := ⟨.accepted, 5#8⟩, asm := { s.asm with msgValid := false } } ∧
    ∀ f t, runCycle (cmdCycle 5#32 3#3 f) s = .next t →
      t.err = s.err ∧ (t.asm.msgCount ≠ s.asm.msgCount → t.asm.msgValid = true)

/-- 44 R224, for each reserved row and ILLEGAL_RSV: ILLEGAL, the OPCODE of the word, CMD_ERR, nothing else. -/
def Obligations.ReservedWordsComplete : Prop :=
  ∀ s : State,
    let illegal : BitVec 8 → Result := fun op =>
      .next { s with cmdStatus := ⟨.illegal, op⟩, irqStatus := s.irqStatus ||| 0x20#6 }
    (∀ low, exec (.reserved0607 low) s = illegal (0x06#8 + low.setWidth 8)) ∧
    (∀ low, exec (.reserved080F low) s = illegal (0x08#8 + low.setWidth 8)) ∧
    (∀ low, exec (.reserved101F low) s = illegal (0x10#8 + low.setWidth 8)) ∧
    (∀ low, exec (.reserved203F low) s = illegal (0x20#8 + low.setWidth 8)) ∧
    (∀ low, exec (.reserved407F low) s = illegal (0x40#8 + low.setWidth 8)) ∧
    (∀ low, exec (.reserved80FF low) s = illegal (0x80#8 + low.setWidth 8)) ∧
    (∀ rsv op, exec (.illegalRsv rsv op) s = illegal op)

/-- 41 R140, R141, R143, R144, R145: TX_SEND with its checks in order, and the whole state it leaves.
`counted` are the bytes of the message as the count sees them and `txByte s.mem tx.draw` those the send
encodes: the bytes written, and for a byte never written any value (93 U1).  `freshDraw` and `tx.draw` are
the model's own (log 3). -/
def Obligations.TxSendResult : Prop :=
  decode (.cmd 0x00000001#32) = .ok .txSend ∧
  (∀ m draw j b, readMem m (0x1000 + j) = some b → txByte m draw j = b) ∧
  ∀ s : State, ∃ (counted : Nat → Byte) (n : Nat),
    (∀ j b, readMem s.mem (0x1000 + j) = some b → counted j = b) ∧
    let D := s.tx.bitdur.toNat
    let L := s.tx.len.toNat
    let C := ((List.range L).filter fun j => decide (counted j &&& 0xC0#8 ≠ 0x80#8)).length
    (s.tx.busy = true → exec .txSend s = .next { s with cmdStatus := ⟨.ignoredBusy, 1#8⟩ }) ∧
    (s.tx.busy = false → (D < 50 ∨ 1000 < D) →
      exec .txSend s = .next { s with
        cmdStatus := ⟨.invalidBitDuration, 1#8⟩, irqStatus := s.irqStatus ||| 0x20#6 }) ∧
    (s.tx.busy = false → 50 ≤ D → D ≤ 1000 → 2000 < L →
      exec .txSend s = .next { s with
        cmdStatus := ⟨.msgTooLong, 1#8⟩, irqStatus := s.irqStatus ||| 0x20#6 }) ∧
    (s.tx.busy = false → 50 ≤ D → D ≤ 1000 → L ≤ 2000 → 500 < C →
      exec .txSend s = .next { s with
        cmdStatus := ⟨.msgTooLong, 1#8⟩, irqStatus := s.irqStatus ||| 0x20#6, freshDraw := n }) ∧
    (s.tx.busy = false → 50 ≤ D → D ≤ 1000 → L ≤ 2000 → C ≤ 500 →
      ∃ tx, exec .txSend s = .next { s with
          cmdStatus := ⟨.accepted, 1#8⟩, irqStatus := s.irqStatus ||| 0x01#6
          freshDraw := n, tx := tx } ∧
        tx.bitdur = s.tx.bitdur ∧ tx.len = s.tx.len ∧ tx.lastEnd = s.tx.lastEnd ∧
        tx.total.toNat = 16 + 16 * L ∧ tx.chars.toNat = C ∧ tx.estMs.toNat = (16 + 16 * L) * D ∧
        tx.busy = true ∧ tx.phase = .bits ∧ tx.cancel = false ∧ tx.acquire = true ∧
        tx.bitIndex = 0#16 ∧ tx.level = frameBit (txByte s.mem tx.draw) L 0 ∧
        tx.sent = 1#16 ∧ tx.pct.toNat = 100 / (16 + 16 * L) ∧
        tx.timer.toNat = D * clkPerMs s - 1)

/-- 41 R146: the cancel flag while busy, nothing else. -/
def Obligations.TxStopResult : Prop :=
  decode (.cmd 0x00000002#32) = .ok .txStop ∧
  ∀ s : State,
    (s.tx.busy = true → exec .txStop s = .next { s with
      cmdStatus := ⟨.accepted, 2#8⟩, tx := { s.tx with cancel := true } }) ∧
    (s.tx.busy = false → exec .txStop s = .next { s with cmdStatus := ⟨.accepted, 2#8⟩ })

/-- 42 R170. -/
def Obligations.RxStartResult : Prop :=
  decode (.cmd 0x00000003#32) = .ok .rxStart ∧
  ∀ s : State,
    (s.rx.session ≠ .idle → exec .rxStart s = .next { s with cmdStatus := ⟨.ignoredBusy, 3#8⟩ }) ∧
    (s.rx.session = .idle → exec .rxStart s = .next { s with
      cmdStatus := ⟨.accepted, 3#8⟩
      rx := { s.rx with
        session := .opening, hold := true, candValid := false, candVal := false, candRun := 0#8
        emitCount := 0#32, frameCount := 0#32, skipCount := 0#32 }
      asm := { s.asm with buf := [], decCount := 0#32, decCode := .none, decPos := 0#16 } })

/-- 42 R175, with its command word; a capture event of the same cycle has no effect. -/
def Obligations.RxStopResult : Prop :=
  decode (.cmd 0x00000004#32) = .ok .rxStop ∧
  ∀ s : State,
    (s.rx.session ≠ .idle → exec .rxStop s = .next { s with
      cmdStatus := ⟨.accepted, 4#8⟩, rx := { s.rx with session := .idle, hold := false } }) ∧
    (s.rx.session = .idle → exec .rxStop s = .next { s with cmdStatus := ⟨.accepted, 4#8⟩ }) ∧
    ∀ e f, runCycle (cmdCycle 4#32 e f) s = runCycle (cmdCycle 4#32 0#3 Frame.empty) s

/-- 44 R225: what no command writes.  `freshDraw` and `tx.draw` are the model's own (log 3). -/
def Obligations.CommandsFrame : Prop :=
  ∀ (i : Instr) (s t : State), (isCommand i = true ∨ isIllegalWord i = true) → exec i s = .next t →
    t.cfg = s.cfg ∧ t.irqEnable = s.irqEnable ∧ t.err = s.err ∧ t.mem = s.mem ∧
    t.busResp = s.busResp ∧ t.clkIndex = s.clkIndex ∧ t.inputs = s.inputs ∧
    (i ≠ .txSend → i ≠ .txStop → t.tx = s.tx ∧ t.freshDraw = s.freshDraw) ∧
    (i ≠ .rxStart → i ≠ .rxStop → t.rx = s.rx) ∧
    (i ≠ .rxStart → i ≠ .rxMsgAck → t.asm = s.asm) ∧
    (isCommand i = true → i ≠ .txSend → t.irqStatus = s.irqStatus)

/-! ## The TX phase -/

/-- 41 R150, R151, R152: one TX phase.  First the counting of a period, that a period with `timer` cycles
to come counts them all down, and the value a period starts with; then PeriodEnd in BITS, with the bounds of
the invariant TxRunning as a premise where the next bit starts; then PeriodEnd in GUARD, and that an idle
sequencer that meets the invariant drives Low and holds nothing. -/
def Obligations.TxPhaseResult : Prop :=
  ∀ s : State,
    let i := s.tx.bitIndex.toNat
    let T := s.tx.total.toNat
    let L := s.tx.len.toNat
    let start := BitVec.ofNat 32 (s.tx.bitdur.toNat * clkPerMs s - 1)
    txPhase false s = .next s ∧
    (s.tx.timer ≠ 0#32 →
      txPhase true s = .next { s with tx := { s.tx with timer := s.tx.timer - 1#32 } }) ∧
    (∀ k, s.tx.busy = true → k ≤ s.tx.timer.toNat → txPhases k s = .next { s with
      tx := { s.tx with timer := s.tx.timer - BitVec.ofNat 32 k } }) ∧
    (s.tx.bitdur.toNat ≤ 1000 → start.toNat = s.tx.bitdur.toNat * clkPerMs s - 1) ∧
    (s.tx.timer = 0#32 → s.tx.phase = .bits → (s.tx.cancel = true ∨ i + 1 = T) →
      txPhase true s = .next { s with tx := { s.tx with
        lastEnd := if i + 1 = T then .completed else .cancelled
        phase := .guard, level := false, timer := start } }) ∧
    (s.tx.timer = 0#32 → s.tx.phase = .bits → s.tx.cancel = false → i + 1 < T →
      L ≤ 2000 → T = 16 + 16 * L →
      ∃ tx, txPhase true s = .next { s with irqStatus := s.irqStatus ||| 0x01#6, tx := tx } ∧
        tx = { s.tx with
          bitIndex := tx.bitIndex, level := tx.level, sent := tx.sent, pct := tx.pct, timer := start } ∧
        tx.bitIndex.toNat = i + 1 ∧ tx.level = frameBit (txByte s.mem s.tx.draw) L (i + 1) ∧
        tx.sent.toNat = i + 2 ∧ tx.pct.toNat = (i + 2) * 100 / T) ∧
    (s.tx.timer = 0#32 → s.tx.phase = .guard →
      txPhase true s = .next { s with
        irqStatus := s.irqStatus ||| 0x02#6
        tx := { s.tx with
          busy := false, phase := .bits, cancel := false, acquire := false, level := false } }) ∧
    (Inv s → s.tx.busy = false → s.tx.level = false ∧ s.tx.acquire = false)

/-- 41 R153: the exact timing of a send that is not cancelled, whatever else the outside presents in its
cycles short of a reset and a TX_STOP: accesses, other commands, capture events.  The step from `s` is the
cycle that accepts the TX_SEND; `k` cycles after it the state is `t`, and the next cycle gives `u`.  A bit of
IRQ_STATUS that a cycle does not set may still be cleared in it, never become 1.  The cycles are the script's
(log 1), and those after its end present nothing. -/
def Obligations.SendTiming : Prop :=
  ∀ (s s₁ : State) (e : BitVec 3) (f : Frame) (rest : List Input),
    s.inputs = .cycle (cmdCycle 1#32 e f) :: rest → CyclesOnly rest → s.tx.busy = false →
    step s = .next s₁ → s₁.tx.busy = true →
    let T := s₁.tx.total.toNat
    let N := bitPeriod s₁
    NeverCommands 2#32 (rest.take ((T + 1) * N)) →
    s₁.irqStatus.getLsbD 0 = true ∧
    (∀ k, k < (T + 1) * N →
      ∃ t u, Host.Core.run Sys2Proof.core k s₁ = .next t ∧ step t = .next u ∧
        t.tx.busy = true ∧ t.tx.acquire = true ∧
        (k < T * N → t.tx.phase = .bits ∧ t.tx.level = sendBit s₁ s₁.tx.draw (k / N)) ∧
        (T * N ≤ k → t.tx.phase = .guard ∧ t.tx.level = false) ∧
        (if (k + 1) % N = 0 ∧ (k + 1) / N < T then u.irqStatus.getLsbD 0 = true
          else u.irqStatus.getLsbD 0 = true → t.irqStatus.getLsbD 0 = true) ∧
        (if k + 1 = (T + 1) * N then u.irqStatus.getLsbD 1 = true ∧ u.tx.lastEnd = .completed
          else u.irqStatus.getLsbD 1 = true → t.irqStatus.getLsbD 1 = true)) ∧
    ∀ k, (T + 1) * N ≤ k → NeverCommands 1#32 ((rest.take k).drop ((T + 1) * N)) →
      ∃ t, Host.Core.run Sys2Proof.core k s₁ = .next t ∧
        t.tx.busy = false ∧ t.tx.acquire = false ∧ t.tx.level = false

/-- 41 R156: the exact timing of a cancelled send, from a TX_STOP in a bit that is not the last, in the
last bit, or in the guard, whatever else the outside presents in its cycles short of a reset: accesses, other
commands, capture events, further TX_STOPs.  The first of the `k` cycles is the one that presents the
TX_STOP; `R` cycles, that one among them, are left of the current period.  The cycles are the script's
(log 1), and those after its end present nothing. -/
def Obligations.CancelledSendTiming : Prop :=
  ∀ (s : State) (e : BitVec 3) (f : Frame) (rest : List Input),
    s.inputs = .cycle (cmdCycle 2#32 e f) :: rest → CyclesOnly rest → s.tx.busy = true → TxRunning s →
    let R := s.tx.timer.toNat + 1
    let N := bitPeriod s
    (s.tx.phase = .bits →
      (∀ k, k < R + N →
        ∃ t, Host.Core.run Sys2Proof.core k s = .next t ∧ t.tx.busy = true ∧
          t.tx.bitIndex = s.tx.bitIndex ∧
          (k < R → t.tx.phase = .bits ∧ t.tx.level = s.tx.level) ∧
          (R ≤ k → t.tx.phase = .guard ∧ t.tx.level = false)) ∧
      ∀ k, R + N ≤ k → NeverCommands 1#32 ((s.inputs.take k).drop (R + N)) →
        ∃ t, Host.Core.run Sys2Proof.core k s = .next t ∧ t.tx.busy = false ∧
          t.tx.acquire = false ∧ t.tx.level = false ∧
          (k = R + N → t.irqStatus.getLsbD 1 = true) ∧
          t.tx.lastEnd =
            if s.tx.bitIndex.toNat + 1 = s.tx.total.toNat then .completed else .cancelled) ∧
    (s.tx.phase = .guard →
      (∀ k, k < R →
        ∃ t, Host.Core.run Sys2Proof.core k s = .next t ∧ t.tx.busy = true ∧ t.tx.acquire = true ∧
          t.tx.phase = .guard ∧ t.tx.level = false) ∧
      ∀ k, R ≤ k → NeverCommands 1#32 ((s.inputs.take k).drop R) →
        ∃ t, Host.Core.run Sys2Proof.core k s = .next t ∧ t.tx.busy = false ∧
          t.tx.acquire = false ∧ t.tx.level = false ∧ (k = R → t.irqStatus.getLsbD 1 = true) ∧
          t.tx.lastEnd = s.tx.lastEnd)

/-- 41 R157: the progress registers of a running send, and when PCT is 100. -/
def Obligations.ProgressOfARunningSend : Prop :=
  ∀ s : State, Inv s → s.tx.busy = true →
    let T := s.tx.total.toNat
    s.tx.sent.toNat = s.tx.bitIndex.toNat + 1 ∧ s.tx.pct.toNat = s.tx.sent.toNat * 100 / T ∧
    s.tx.pct.toNat ≤ 100 ∧ (s.tx.pct = 100#7 ↔ s.tx.bitIndex.toNat + 1 = T)

/-! ## The codec -/

/-- 00 R16: the least position at or after `start` where the pattern occurs. -/
def Obligations.FindIsTheLeastOccurrence : Prop :=
  ∀ (s p : Bits) (start i : Nat), findBits s p start = some i ↔
    start ≤ i ∧ occursAt s p i ∧ ∀ j, start ≤ j → j < i → ¬ occursAt s p j

/-- 30 R80, R81, R83; 40 R101, R104: the frame is the start marker, the pairs of the bytes' bits, most
significant first, and the end marker, said line bit by line bit and in wire symbols; and so its length. -/
def Obligations.FrameIsItsSymbols : Prop :=
  ∀ m : List Byte,
    (encodeFrame m).length = 16 + 16 * m.length ∧
    (encodeFrame m).take 8 = [true, true, true, true, false, false, false, false] ∧
    (∀ r, r < 8 * m.length →
      let raw := (m.getD (r / 8) 0#8).getLsbD (7 - r % 8)
      (encodeFrame m)[8 + 2 * r]? = some (!raw) ∧ (encodeFrame m)[8 + 2 * r + 1]? = some raw) ∧
    (encodeFrame m).drop (8 + 16 * m.length)
      = [false, false, false, false, true, true, true, true] ∧
    encodeFrame m = bitsOfSymbols (frameSymbols m)

/-- 40 R105: a payload has no three equal line bits in a row, so no marker; and no end marker begins in a
frame before its own. -/
def Obligations.MarkerFreePayload : Prop :=
  ∀ m : List Byte,
    let p := bitsOfSymbols (payloadSymbols m)
    (∀ i, i + 2 < p.length →
      ¬ (p.getD i false = p.getD (i + 1) false ∧ p.getD (i + 1) false = p.getD (i + 2) false)) ∧
    (∀ i, ¬ occursAt p Config.params.startMarker i ∧ ¬ occursAt p Config.params.endMarker i) ∧
    (∀ i, i < 8 + 16 * m.length → ¬ occursAt (encodeFrame m) Config.params.endMarker i)

/-- 40 R122: every well-formed message decodes from its frame, whatever its length; up to 624 bytes its
frame fits the bit buffer. -/
def Obligations.RoundTrip : Prop :=
  ∀ m : List Byte,
    (wellFormedUtf8 m = true → decodeFrame (encodeFrame m) = .ok m) ∧
    ((encodeFrame m).length ≤ 10000 ↔ m.length ≤ 624)

/-- 40 R123: bits before a frame that start no start marker, and bits after it, do not matter. -/
def Obligations.PrefixAndSuffixDoNotMatter : Prop :=
  ∀ (x y : Bits) (m : List Byte),
    (∀ i, i < x.length → ¬ occursAt (x ++ encodeFrame m) Config.params.startMarker i) →
    decodeFrame (x ++ encodeFrame m ++ y) = decodeFrame (encodeFrame m)

/-- 40 R111, R112, R113, R124: the leftmost start marker, the leftmost end marker from eight bits on, the
payload between them, and the failures where one of them is missing. -/
def Obligations.DecodeFindsItsMarkers : Prop :=
  ∀ bits : Bits,
    (decodeFrame bits = .error .missingStartMarker ↔
      ∀ i, ¬ occursAt bits Config.params.startMarker i) ∧
    (decodeFrame bits = .error .missingEndMarker ↔
      ∃ s, findBits bits Config.params.startMarker 0 = some s ∧
        ∀ i, s + 8 ≤ i → ¬ occursAt bits Config.params.endMarker i) ∧
    (∀ s e, findBits bits Config.params.startMarker 0 = some s →
      findBits bits Config.params.endMarker (s + 8) = some e →
      decodeFrame bits = decodePayload ((bits.take e).drop (s + 8))) ∧
    ∀ bs, decodeFrame bits = .ok bs → 16 ≤ bits.length

/-- 40 R114, R116, R117, R118, R119, R120, R121: the checks on a payload in their order, and the bytes. -/
def Obligations.PayloadChecksInOrder : Prop :=
  ∀ p : Bits,
    let raw : Nat → Bool := fun r => p.getD (2 * r + 1) false
    let pairOk : Nat → Prop := fun k => p.getD k false ≠ p.getD (k + 1) false
    let bytes : List Byte := (List.range (p.length / 16)).map fun j =>
      BitVec.ofNat 8 ((Finset.range 8).sum fun b => (raw (8 * j + b)).toNat * 2 ^ (7 - b))
    (p.length % 2 = 1 → decodePayload p = .error .oddPayloadLength) ∧
    (∀ k, p.length % 2 = 0 → k % 2 = 0 → k + 1 < p.length → ¬ pairOk k →
      (∀ j, j % 2 = 0 → j < k → pairOk j) → decodePayload p = .error (.invalidPair k)) ∧
    (p.length % 2 = 0 → (∀ k, k % 2 = 0 → k + 1 < p.length → pairOk k) →
      (p.length % 16 ≠ 0 → decodePayload p = .error .notByteAligned) ∧
      (p.length % 16 = 0 → wellFormedUtf8 bytes = false → decodePayload p = .error .invalidUtf8) ∧
      (p.length % 16 = 0 → wellFormedUtf8 bytes = true → decodePayload p = .ok bytes))

/-- 40 R119, R102: well-formed means that the bytes split into sub-sequences that each match a row; the
frame of any other bytes decodes as InvalidUtf8. -/
def Obligations.WellFormedMeansItSplitsIntoRows : Prop :=
  ∀ bs : List Byte,
    (wellFormedUtf8 bs = true ↔
      ∃ parts : List (List Byte), parts.flatten = bs ∧
        ∀ p ∈ parts, ∃ row ∈ utf8Rows, p.length = row.length ∧ matchesRow row p = true) ∧
    (wellFormedUtf8 bs = false → decodeFrame (encodeFrame bs) = .error .invalidUtf8)

/-- 95 section 2.2: every kind of decode failure from a minimal bit string. -/
def Obligations.EveryDecodeFailureIsReproducible : Prop :=
  decodeFrame [] = .error .missingStartMarker ∧
  decodeFrame (Config.params.startMarker ++ List.replicate 8 false) = .error .missingEndMarker ∧
  decodeFrame (Config.params.startMarker ++ [false] ++ Config.params.endMarker)
    = .error .oddPayloadLength ∧
  decodeFrame (Config.params.startMarker ++ [true, false, false, false] ++ Config.params.endMarker)
    = .error (.invalidPair 2) ∧
  decodeFrame (Config.params.startMarker ++ [true, false] ++ Config.params.endMarker)
    = .error .notByteAligned ∧
  decodeFrame (encodeFrame [0xFF#8]) = .error .invalidUtf8 ∧
  decodeFrame (Config.params.startMarker ++ Config.params.endMarker) = .ok []

/-! ## The receive session -/

/-- 42 R171, R172, R173, R174, R179: the events without a frame in every state of the session, reserved
codes, NONE, and a FRAME outside ACTIVE. -/
def Obligations.SessionEventsResult : Prop :=
  ∀ s : State,
    exec .evtNone s = .next s ∧ (∀ low, exec (.evtReserved low) s = .next s) ∧
    (s.rx.session = .opening → exec .evtOpenOk s = .next { s with rx := { s.rx with session := .active } }) ∧
    (s.rx.session = .opening → exec .evtOpenFail s = .next { s with
      rx := { s.rx with session := .idle, hold := false }
      err := s.err ||| 1#3, irqStatus := s.irqStatus ||| 0x10#6 }) ∧
    (s.rx.session ≠ .opening → exec .evtOpenOk s = .next s ∧ exec .evtOpenFail s = .next s) ∧
    (s.rx.session = .active → exec .evtFrameFail s = .next { s with
      rx := { s.rx with skipCount := s.rx.skipCount + 1#32 } }) ∧
    (s.rx.session ≠ .active → exec .evtFrameFail s = .next s ∧ ∀ f, exec (.evtFrame f) s = .next s) ∧
    (s.rx.session ≠ .idle → exec .evtFatal s = .next { s with
      rx := { s.rx with session := .idle, hold := false }
      err := s.err ||| 2#3, irqStatus := s.irqStatus ||| 0x10#6 }) ∧
    (s.rx.session = .idle → exec .evtFatal s = .next s)

/-- 42 R176: the region's bounds, pixel count and sum, and their widths. -/
def Obligations.RegionOfAFrame : Prop :=
  ∀ (f : Frame) (hw : BitVec 8),
    let W := f.w.toNat
    let H := f.h.toNat
    let HW : Int := hw.toNat
    let x0 := regionFrom W hw.toNat
    let x1 := regionTo W hw.toNat
    let y0 := regionFrom H hw.toNat
    let y1 := regionTo H hw.toNat
    (x0 : Int) = max 0 ((W / 2 : Nat) - HW) ∧ (x1 : Int) = min (W : Int) ((W / 2 : Nat) + HW) ∧
    (y0 : Int) = max 0 ((H / 2 : Nat) - HW) ∧ (y1 : Int) = min (H : Int) ((H / 2 : Nat) + HW) ∧
    (regionCount f hw.toNat : Int) = max 0 ((x1 : Int) - x0) * max 0 ((y1 : Int) - y0) ∧
    (regionSum f hw.toNat =
      (Finset.Ico y0 y1).sum fun y => (Finset.Ico x0 x1).sum fun x => (pixelAt f x y).toNat) ∧
    regionCount f hw.toNat ≤ 260100 ∧ regionSum f hw.toNat ≤ 66325500

/-- 42 R177: the observation is 1 exactly when `sum > THRESH x cnt`, that is, when the mean exceeds
THRESH. -/
def Obligations.ObservedMeansTheMeanExceeds : Prop :=
  ∀ (thresh : BitVec 8) (sum cnt : Nat),
    (observed thresh sum cnt = true ↔ thresh.toNat * cnt < sum) ∧
    (0 < cnt → (observed thresh sum cnt = true ↔ (thresh.toNat : ℚ) < (sum : ℚ) / (cnt : ℚ)))

/-- 42 R178, R180, R181, R182: a FRAME event, ignored outside ACTIVE, and in ACTIVE in its five cases.
The emitted bit is appended in the same cycle; what `append` does is in the statements about it. -/
def Obligations.FrameEventResult : Prop :=
  ∀ (s : State) (f : Frame),
    (s.rx.session ≠ .active → exec (.evtFrame f) s = .next s) ∧
    (s.rx.session = .active →
      let cnt := regionCount f s.cfg.halfw.toNat
      let sum := regionSum f s.cfg.halfw.toNat
      let obs := decide (s.cfg.thresh.toNat * cnt < sum)
      let seen : Rx := { s.rx with frameCount := s.rx.frameCount + 1#32, lastObs := obs }
      (cnt = 0 → exec (.evtFrame f) s = .next { s with
        rx := { s.rx with
          frameCount := s.rx.frameCount + 1#32, skipCount := s.rx.skipCount + 1#32 } }) ∧
      (cnt ≠ 0 → s.rx.candValid = false → exec (.evtFrame f) s = .next { s with
        rx := { seen with candValid := true, candVal := obs, candRun := 1#8 } }) ∧
      (cnt ≠ 0 → s.rx.candValid = true → obs = s.rx.candVal → exec (.evtFrame f) s = .next { s with
        rx := { seen with candRun := BitVec.ofNat 8 (min (s.rx.candRun.toNat + 1) 255) } }) ∧
      (cnt ≠ 0 → s.rx.candValid = true → obs ≠ s.rx.candVal →
        s.rx.candRun.toNat < max s.cfg.stable.toNat 1 → exec (.evtFrame f) s = .next { s with
          rx := { seen with candVal := obs, candRun := 1#8 } }) ∧
      (cnt ≠ 0 → s.rx.candValid = true → obs ≠ s.rx.candVal →
        max s.cfg.stable.toNat 1 ≤ s.rx.candRun.toNat →
        exec (.evtFrame f) s = .next (append s.rx.candVal { s with
          irqStatus := s.irqStatus ||| 0x04#6
          rx := { seen with
            candVal := obs, candRun := 1#8, lastEmit := s.rx.candVal
            emitCount := s.rx.emitCount + 1#32
            emitSum := BitVec.ofNat 32 sum, emitCnt := BitVec.ofNat 32 cnt } })))

/-- What no capture event touches, the bytes of memory outside RX_MSG among them; only a FRAME touches
the assembler and the mailbox. -/
def Obligations.EventsFrame : Prop :=
  ∀ (i : Instr) (s t : State), isEvent i = true → exec i s = .next t →
    t.cmdStatus = s.cmdStatus ∧ t.cfg = s.cfg ∧ t.irqEnable = s.irqEnable ∧ t.tx = s.tx ∧
    t.busResp = s.busResp ∧ t.clkIndex = s.clkIndex ∧ t.freshDraw = s.freshDraw ∧ t.inputs = s.inputs ∧
    (∀ a, ¬ inRxWindow a → readMem t.mem a = readMem s.mem a) ∧
    ((∀ f, i ≠ .evtFrame f) → t.asm = s.asm ∧ t.mem = s.mem)

/-- 42 R183, the debounce law: over the FRAME events of a session, from no candidate, the emitted bits
are the values of the runs of observations that are long enough, but for the last run. -/
def Obligations.DebounceLaw : Prop :=
  ∀ (fs : List Frame) (s : State), s.rx.candValid = false →
    (sampleAll fs s).2 = stableBits s.cfg.stable (observationsOf s.cfg fs)

/-- 42 R184, the alternation law: if every run is long enough, neighbouring emitted bits differ, and no
marker occurs among them. -/
def Obligations.AlternationLaw : Prop :=
  ∀ (fs : List Frame) (s : State), s.rx.candValid = false →
    (∀ r ∈ runsOf (observationsOf s.cfg fs), max s.cfg.stable.toNat 1 ≤ r.2) →
    (∀ k, k + 1 < (sampleAll fs s).2.length →
      (sampleAll fs s).2.getD k false ≠ (sampleAll fs s).2.getD (k + 1) false) ∧
    ∀ i, ¬ occursAt (sampleAll fs s).2 Config.params.startMarker i ∧
      ¬ occursAt (sampleAll fs s).2 Config.params.endMarker i

/-- 42 R187: each emitted bit takes at least `max(STABLE, 1)` observations, and one more must follow the
last of them. -/
def Obligations.EmittedBitsTakeObservations : Prop :=
  ∀ (fs : List Frame) (s : State), s.rx.candValid = false → (sampleAll fs s).2 ≠ [] →
    (sampleAll fs s).2.length * max s.cfg.stable.toNat 1 + 1 ≤ (observationsOf s.cfg fs).length

/-! ## The assembler -/

/-- 43 R209, R207: the buffer never exceeds its capacity after an append, and a truncation keeps exactly
the latest 5000 bits. -/
def Obligations.BufferBound : Prop :=
  ∀ (b : Bool) (s : State), (append b s).asm.buf.length ≤ 10000 ∧
    (s.asm.buf.length < 10000 → pushBit s.asm.buf b = s.asm.buf ++ [b]) ∧
    (s.asm.buf.length = 10000 → (pushBit s.asm.buf b).length = 5000 ∧
      ∃ old, old ++ pushBit s.asm.buf b = s.asm.buf ++ [b])

/-- 43 R201 to R206, R208: an append.  Below 16 bits (counted after any truncation) it stores the bit;
a failed decode is recorded and keeps the buffer; a successful one fills the mailbox, records the overrun
and clears the buffer. -/
def Obligations.AppendResult : Prop :=
  ∀ (b : Bool) (s : State),
    let buf := pushBit s.asm.buf b
    (buf.length < 16 → append b s = { s with asm := { s.asm with buf := buf } }) ∧
    (∀ e, 16 ≤ buf.length → decodeFrame buf = .error e →
      ∃ code, append b s = { s with
          asm := { s.asm with
            buf := buf, decCount := s.asm.decCount + 1#32, decCode := code
            decPos := match e with | .invalidPair k => BitVec.ofNat 16 k | _ => 0#16 } } ∧
        decCodeBits code = match e with
          | .missingStartMarker => 2#4 | .missingEndMarker => 3#4 | .oddPayloadLength => 4#4
          | .invalidPair _ => 5#4 | .notByteAligned => 6#4 | .invalidUtf8 => 7#4) ∧
    (∀ bs, 16 ≤ buf.length → decodeFrame buf = .ok bs →
      ∃ mem asm, append b s = { s with
          irqStatus := s.irqStatus ||| 0x08#6
          err := if s.asm.msgValid then s.err ||| 4#3 else s.err
          mem := mem, asm := asm } ∧
        (∀ j, j < 624 → readMem mem (0x2000 + j) = some (bs.getD j 0#8)) ∧
        (∀ a, ¬ inRxWindow a → readMem mem a = readMem s.mem a) ∧
        asm.buf = [] ∧ asm.msgValid = true ∧ bs.length ≤ 624 ∧ asm.msgLen.toNat = bs.length ∧
        asm.msgCount = s.asm.msgCount + 1#32 ∧ asm.decCount = s.asm.decCount + 1#32 ∧
        decCodeBits asm.decCode = 1#4 ∧ asm.decPos = 0#16)

/-- 43 R210: after a buffer with no start marker, a frame is delivered at the last bit of its end marker
and not before. -/
def Obligations.DeliveryAtTheLastBit : Prop :=
  ∀ (s : State) (m : List Byte), wellFormedUtf8 m = true →
    (∀ i, ¬ occursAt s.asm.buf Config.params.startMarker i) →
    s.asm.buf.length + (16 + 16 * m.length) ≤ 10000 →
    (∀ k, k < 16 + 16 * m.length →
      (appendAll ((encodeFrame m).take k) s).asm.msgCount = s.asm.msgCount ∧
      (appendAll ((encodeFrame m).take k) s).asm.buf = s.asm.buf ++ (encodeFrame m).take k) ∧
    (let t := appendAll (encodeFrame m) s
     t.asm.buf = [] ∧ t.asm.msgValid = true ∧ t.asm.msgLen.toNat = m.length ∧
     t.asm.msgCount = s.asm.msgCount + 1#32 ∧
     ∀ j, (h : j < m.length) → readMem t.mem (0x2000 + j) = some m[j])

/-- 43 R211: two frames back to back into an empty buffer are both delivered, the first at the last bit of
its end marker; a decode of the two frames at once gives the first message only. -/
def Obligations.BackToBackFramesAreBothDelivered : Prop :=
  ∀ (s : State) (m₁ m₂ : List Byte), wellFormedUtf8 m₁ = true → wellFormedUtf8 m₂ = true →
    s.asm.buf = [] → m₁.length ≤ 624 → m₂.length ≤ 624 →
    let t := appendAll (encodeFrame m₁) s
    let u := appendAll (encodeFrame m₁ ++ encodeFrame m₂) s
    decodeFrame (encodeFrame m₁ ++ encodeFrame m₂) = .ok m₁ ∧
    (t.asm.buf = [] ∧ t.asm.msgCount = s.asm.msgCount + 1#32 ∧ t.asm.msgLen.toNat = m₁.length ∧
      ∀ j, (h : j < m₁.length) → readMem t.mem (0x2000 + j) = some m₁[j]) ∧
    u.asm.buf = [] ∧ u.asm.msgCount = s.asm.msgCount + 2#32 ∧ u.asm.msgLen.toNat = m₂.length ∧
    ∀ j, (h : j < m₂.length) → readMem u.mem (0x2000 + j) = some m₂[j]

/-- 43 R212: an append that does not truncate never moves the leftmost start marker of the buffer. -/
def Obligations.AppendNeverMovesTheStartMarker : Prop :=
  ∀ (buf : Bits) (b : Bool) (i : Nat), buf.length < 10000 →
    findBits buf Config.params.startMarker 0 = some i →
    findBits (pushBit buf b) Config.params.startMarker 0 = some i

/-! ## Wire symbols -/

/-- 30 R80, R83, R84; 43 R201: a wire symbol's line bits are appended one by one, first-sent first (the
model's reading of a wire symbol as an instruction, log 5), and nothing outside the assembler, its
mailbox, IRQ_STATUS and ERR changes. -/
def Obligations.WireSymbolResult : Prop :=
  ∀ (i : Instr) (bits : Bits) (s : State), symbolBits i = some bits →
    ∃ t, exec i s = .next t ∧ t = appendAll bits s ∧
      t.cmdStatus = s.cmdStatus ∧ t.cfg = s.cfg ∧ t.irqEnable = s.irqEnable ∧ t.tx = s.tx ∧
      t.rx = s.rx ∧ t.busResp = s.busResp ∧ t.clkIndex = s.clkIndex ∧ t.freshDraw = s.freshDraw ∧
      t.inputs = s.inputs ∧ ∀ a, ¬ inRxWindow a → readMem t.mem a = readMem s.mem a

/-- 30 R80, 43 R210: running the symbols of a frame delivers its message (log 5). -/
def Obligations.SymbolsOfAFrameDeliverIt : Prop :=
  ∀ (s : State) (m : List Byte), wellFormedUtf8 m = true → m.length ≤ 624 → s.asm.buf = [] →
    ∃ t, execAll (frameSymbols m) s = .next t ∧ t.asm.buf = [] ∧ t.asm.msgValid = true ∧
      t.asm.msgLen.toNat = m.length ∧ t.asm.msgCount = s.asm.msgCount + 1#32 ∧
      ∀ j, (h : j < m.length) → readMem t.mem (0x2000 + j) = some m[j]

/-! ## The host bus -/

/-- 20 R63, R65: an access of another size, misaligned or unmapped gets `bus_err = 1`, `bus_rdata = 0` and
changes nothing; every other access completes without an error. -/
def Obligations.IllegalAccessesChangeNothing : Prop :=
  ∀ (a : BusAccess) (s : State),
    ((a.size ≠ 2#2 ∨ a.addr.toNat % 4 ≠ 0 ∨ unmappedAddr a.addr.toNat) →
      busPhase (some a) s = .next { s with busResp := some ⟨0#32, true⟩ }) ∧
    (¬ (a.size ≠ 2#2 ∨ a.addr.toNat % 4 ≠ 0 ∨ unmappedAddr a.addr.toNat) →
      ∃ t v, busPhase (some a) s = .next t ∧ t.busResp = some ⟨v, false⟩)

/-- 20 R66: a legal read answers a value and changes nothing but the response; `freshDraw` is the model's
own (log 3). -/
def Obligations.ReadsHaveNoSideEffect : Prop :=
  ∀ (a : BusAccess) (s : State) (r : Reg), accessedReg a = some r → a.write = false →
    ∃ v n, busPhase (some a) s = .next { s with busResp := some ⟨v, false⟩, freshDraw := n }

/-- 20 R62, 10 R22 to R29 and R32 to R46: what the registers read, but for the two status words, and
the numbers of the codes. -/
def Obligations.RegisterReads : Prop :=
  ∀ s : State,
    Reads s 0x000#16 0x57484E31#32 ∧ Reads s 0x008#16 0#32 ∧
    Reads s 0x004#16
      (BitVec.ofNat 32 (s.cfg.thresh.toNat + 256 * s.cfg.stable.toNat + 65536 * s.cfg.halfw.toNat)) ∧
    Reads s 0x00C#16
      (BitVec.ofNat 32 ((cmdCodeBits s.cmdStatus.code).toNat + 256 * s.cmdStatus.opcode.toNat)) ∧
    Reads s 0x010#16 (BitVec.ofNat 32 s.irqStatus.toNat) ∧
    Reads s 0x014#16 (BitVec.ofNat 32 s.irqEnable.toNat) ∧
    Reads s 0x018#16 (BitVec.ofNat 32 s.err.toNat) ∧
    Reads s 0x020#16 (BitVec.ofNat 32 s.tx.bitdur.toNat) ∧
    Reads s 0x024#16 (BitVec.ofNat 32 s.tx.len.toNat) ∧
    Reads s 0x02C#16 (BitVec.ofNat 32 s.tx.total.toNat) ∧
    Reads s 0x030#16 (BitVec.ofNat 32 (s.tx.sent.toNat + 65536 * s.tx.pct.toNat)) ∧
    Reads s 0x034#16 (BitVec.ofNat 32 s.tx.chars.toNat) ∧ Reads s 0x038#16 s.tx.estMs ∧
    Reads s 0x044#16 (BitVec.ofNat 32 (s.asm.buf.length % 2 ^ 14)) ∧
    Reads s 0x048#16 s.rx.emitCount ∧ Reads s 0x04C#16 s.rx.frameCount ∧
    Reads s 0x050#16 s.rx.skipCount ∧ Reads s 0x054#16 s.rx.emitSum ∧ Reads s 0x058#16 s.rx.emitCnt ∧
    Reads s 0x05C#16
      (BitVec.ofNat 32 ((decCodeBits s.asm.decCode).toNat + 65536 * s.asm.decPos.toNat)) ∧
    Reads s 0x060#16 s.asm.decCount ∧ Reads s 0x064#16 (BitVec.ofNat 32 s.asm.msgLen.toNat) ∧
    Reads s 0x068#16 s.asm.msgCount ∧
    [CmdCode.none, .accepted, .ignoredBusy, .invalidBitDuration, .msgTooLong, .illegal].map cmdCodeBits
      = [0#4, 1#4, 2#4, 3#4, 4#4, 5#4] ∧
    [DecCode.none, .ok, .missingStartMarker, .missingEndMarker, .oddPayloadLength, .invalidPair,
      .notByteAligned, .invalidUtf8].map decCodeBits = [0#4, 1#4, 2#4, 3#4, 4#4, 5#4, 6#4, 7#4]

/-- 10 R31, R36: the fields of TX_STATUS and RX_STATUS. -/
def Obligations.StatusWordReads : Prop :=
  ∀ s : State,
    (∃ v, Reads s 0x028#16 v ∧
      (v.extractLsb' 0 2).toNat = (if s.tx.busy then (if s.tx.cancel then 2 else 1) else 0) ∧
      v.getLsbD 2 = (s.tx.busy && decide (s.tx.phase = .guard)) ∧ v.getLsbD 3 = s.tx.level ∧
      v.getLsbD 4 = s.tx.acquire ∧ v.getLsbD 5 = s.tx.cancel ∧
      v.extractLsb' 6 2 = (match s.tx.lastEnd with | .none => 0#2 | .completed => 1#2 | .cancelled => 2#2) ∧
      v.extractLsb' 8 24 = 0#24) ∧
    (∃ v, Reads s 0x040#16 v ∧
      v.extractLsb' 0 2 = (match s.rx.session with | .idle => 0#2 | .opening => 1#2 | .active => 2#2) ∧
      v.getLsbD 2 = s.rx.candValid ∧ v.getLsbD 3 = (s.rx.candValid && s.rx.candVal) ∧
      v.getLsbD 4 = s.rx.lastObs ∧ v.getLsbD 5 = s.rx.lastEmit ∧ v.getLsbD 6 = s.asm.msgValid ∧
      v.getLsbD 7 = false ∧
      v.extractLsb' 8 8 = (if s.rx.candValid then s.rx.candRun else 0#8) ∧ v.extractLsb' 16 16 = 0#16)

/-- 20 R64: the bytes of a message window's word.  A word written to TX_MSG while no send runs is its four
bytes, byte 0 lowest, and leaves every other byte alone; a read of a word whose four bytes are written, in
either window, is those bytes.  `freshDraw` is the model's own (log 3). -/
def Obligations.WindowWordsAreLittleEndian : Prop :=
  (∀ (s : State) (k : Nat) (w : Word), k < 500 → s.tx.busy = false →
    ∃ mem, Writes s (BitVec.ofNat 16 (0x1000 + 4 * k)) w { s with mem := mem } ∧
      (∀ j, j < 4 → readMem mem (0x1000 + 4 * k + j) = some (w.extractLsb' (8 * j) 8)) ∧
      ∀ b, (b < 0x1000 + 4 * k ∨ 0x1000 + 4 * k + 4 ≤ b) → readMem mem b = readMem s.mem b) ∧
  ∀ (s : State) (a : BitVec 16) (w : Word), a.toNat % 4 = 0 →
    (inTxWindow a.toNat ∨ inRxWindow a.toNat) →
    (∀ j, j < 4 → readMem s.mem (a.toNat + j) = some (w.extractLsb' (8 * j) 8)) →
    ∃ n, busPhase (some (readOf a)) s = .next { s with busResp := some ⟨w, false⟩, freshDraw := n }

/-- 41 R148: while a send runs, a write to TX_BITDUR, TX_LEN or a TX_MSG word stores nothing and gets no
error; otherwise it stores.  Reads of the two registers are the same in both cases. -/
def Obligations.TransmitLock : Prop :=
  ∀ (s : State) (w : Word) (k : Nat), k < 500 →
    Reads s 0x020#16 (BitVec.ofNat 32 s.tx.bitdur.toNat) ∧
    Reads s 0x024#16 (BitVec.ofNat 32 s.tx.len.toNat) ∧
    (s.tx.busy = true →
      Writes s 0x020#16 w s ∧ Writes s 0x024#16 w s ∧ Writes s (BitVec.ofNat 16 (0x1000 + 4 * k)) w s) ∧
    (s.tx.busy = false →
      Writes s 0x020#16 w { s with tx := { s.tx with bitdur := w.setWidth 16 } } ∧
      Writes s 0x024#16 w { s with tx := { s.tx with len := w.setWidth 16 } } ∧
      ∃ mem, Writes s (BitVec.ofNat 16 (0x1000 + 4 * k)) w { s with mem := mem } ∧
        readMem mem (0x1000 + 4 * k) = some (w.setWidth 8))

/-- 20 R66, 10 R23, R27: writes to CFG and IRQ_ENABLE store their fields; writes to read-only registers
and to RX_MSG are ignored without an error. -/
def Obligations.RegisterWrites : Prop :=
  ∀ (s : State) (w : Word),
    Writes s 0x004#16 w { s with cfg := ⟨w.extractLsb' 0 8, w.extractLsb' 8 8, w.extractLsb' 16 8⟩ } ∧
    Writes s 0x014#16 w { s with irqEnable := w.setWidth 6 } ∧
    (∀ a ∈ [0x000#16, 0x00C#16, 0x028#16, 0x02C#16, 0x030#16, 0x034#16, 0x038#16, 0x040#16, 0x044#16,
        0x048#16, 0x04C#16, 0x050#16, 0x054#16, 0x058#16, 0x05C#16, 0x060#16, 0x064#16, 0x068#16],
      Writes s a w s) ∧
    ∀ k, k < 156 → Writes s (BitVec.ofNat 16 (0x2000 + 4 * k)) w s

/-! ## The whole machine -/

/-- 60 R250: a cycle without reset, whatever access it presents, is the bus phase of that access, the TX
phase if the sequencer was busy at the start of the cycle, and the instruction its event code carries, a
FRAME with its append; a write of a word to CMD runs the instruction the word carries in the bus phase; a
reset cycle is the reset alone.  The script loses that entry (log 1).  A symbol entry runs the symbol after
the TX phases of its cycles (log 5). -/
def Obligations.StepRunsTheDecodedInstruction : Prop :=
  ∀ s : State,
    (∀ c rest j, s.inputs = .cycle c :: rest → c.rst = false → decode (.evt c.evt c.frame) = .ok j →
      step s = chain (chain (busPhase c.bus { s with inputs := rest }) (txPhase s.tx.busy)) (exec j)) ∧
    (∀ c rest, s.inputs = .cycle c :: rest → c.rst = true →
      step s = .next (resetCycle c { s with inputs := rest })) ∧
    (∀ w e f rest i j,
      s.inputs = .cycle (cmdCycle w e f) :: rest →
      decode (.cmd w) = .ok i → decode (.evt e f) = .ok j →
      ∃ v, step s = chain (chain (exec i { s with inputs := rest, busResp := some ⟨v, false⟩ })
        (txPhase s.tx.busy)) (exec j)) ∧
    (∀ e f rest j, s.inputs = .cycle ⟨false, none, e, f⟩ :: rest → decode (.evt e f) = .ok j →
      step s = chain (txPhase s.tx.busy { s with inputs := rest, busResp := none }) (exec j)) ∧
    (∀ bits rest i, s.inputs = .symbol bits :: rest → decode (.wire bits) = .ok i →
      step s = chain (txPhases bits.length { s with inputs := rest, busResp := none }) (exec i)) ∧
    (s.inputs = [] → step s = txPhase s.tx.busy { s with busResp := none })

/-- 60 R251, 70 R283: what happens where two things come in one cycle: RX_STOP and a FRAME; RX_START and
OPEN_OK; TX_STOP and the end of a bit's period; a TX_SEND and the TX phase; a CFG write and a FRAME; a read
and an internal update. -/
def Obligations.SimultaneousEvents : Prop :=
  ∀ (s : State) (e : BitVec 3) (f : Frame),
    runCycle (cmdCycle 4#32 3#3 f) s = runCycle (cmdCycle 4#32 0#3 f) s ∧
    (∀ t, s.rx.session = .idle → runCycle (cmdCycle 3#32 0#3 f) s = .next t →
      runCycle (cmdCycle 3#32 1#3 f) s = .next { t with rx := { t.rx with session := .active } }) ∧
    (∀ t, s.tx.busy = true → s.tx.phase = .bits → s.tx.timer = 0#32 →
      s.tx.bitIndex.toNat + 1 ≠ s.tx.total.toNat → runCycle (cmdCycle 2#32 0#3 f) s = .next t →
      t.tx.phase = .guard ∧ t.tx.level = false ∧ t.tx.lastEnd = .cancelled) ∧
    (∀ t u, s.tx.busy = false → runCycle (cmdCycle 1#32 0#3 f) s = .next t → exec .txSend s = .next u →
      t.tx = u.tx) ∧
    (∀ w c, runCycle ⟨false, some (writeOf 0x004#16 w), e, f⟩ { s with cfg := c }
      = runCycle ⟨false, some (writeOf 0x004#16 w), e, f⟩ s) ∧
    ∀ a t u, runCycle ⟨false, some (readOf a), e, f⟩ s = .next t →
      busPhase (some (readOf a)) s = .next u → t.busResp = u.busResp

/-- 70 R270: a reset cycle, whatever it presents: every register at its reset value, the message windows
unchanged, an access answered with 0 and no error.  Nothing is said of the model's own fields `freshDraw`,
`tx.draw` and `inputs` (logs 1, 3); `clkIndex` is the parameter CLK_PER_MS (log 2). -/
def Obligations.ResetCycleResult : Prop :=
  ∀ (s : State) (c : Cycle), c.rst = true → ∃ draw n script resp,
    runCycle c s = .next { State.reset with
      tx := { Tx.reset with draw := draw }, busResp := resp
      mem := s.mem, clkIndex := s.clkIndex, freshDraw := n, inputs := script } ∧
    (c.bus ≠ none → resp = some ⟨0#32, false⟩)

/-- 70 R272: what the registers read and the outputs show after reset. -/
def Obligations.ResetReadings : Prop :=
  ∀ (s : State) (c : Cycle), c.rst = true → ∃ t, runCycle c s = .next t ∧
    Reads t 0x000#16 0x57484E31#32 ∧ Reads t 0x004#16 0x00320380#32 ∧
    (∀ a ∈ [0x008#16, 0x00C#16, 0x010#16, 0x014#16, 0x018#16, 0x020#16, 0x024#16, 0x028#16, 0x02C#16,
        0x030#16, 0x034#16, 0x038#16, 0x040#16, 0x044#16, 0x048#16, 0x04C#16, 0x050#16, 0x054#16,
        0x058#16, 0x05C#16, 0x060#16, 0x064#16, 0x068#16], Reads t a 0#32) ∧
    t.tx.level = false ∧ t.tx.acquire = false ∧ t.rx.hold = false ∧ irqOutput t = false ∧
    t.asm.buf = [] ∧ t.asm.msgValid = false

/-- The invariant holds in the state after power-up and reset. -/
def Obligations.InvAtReset : Prop := Inv State.reset

/-- Every step keeps the invariant, from every state that meets it. -/
def Obligations.StepKeepsInv : Prop :=
  ∀ s t : State, Inv s → step s = .next t → Inv t

/-- 60 R243: from a state that meets the invariant, with wire symbols of the table only in its script, a
step answers a next state: nothing the block does can fail. -/
def Obligations.StepNeverStops : Prop :=
  ∀ s : State, Inv s → ScriptDecodes s → ∃ t, step s = .next t

/-- 60 R247: only a host write or reset clears a bit of IRQ_STATUS or ERR, and the write clears exactly
the bits where it has a 1. -/
def Obligations.OnlyTheHostClearsPendingBits : Prop :=
  (∀ (s : State) (w : Word),
    Writes s 0x010#16 w { s with irqStatus := s.irqStatus &&& ~~~ (w.setWidth 6) } ∧
    Writes s 0x018#16 w { s with err := s.err &&& ~~~ (w.setWidth 3) }) ∧
  ∀ s t : State, step s = .next t →
    ((∀ c rest, s.inputs = .cycle c :: rest → c.rst = false ∧ ¬ writesReg c .irqStatus) →
      s.irqStatus &&& t.irqStatus = s.irqStatus) ∧
    ((∀ c rest, s.inputs = .cycle c :: rest → c.rst = false ∧ ¬ writesReg c .err) →
      s.err &&& t.err = s.err)

/-- 60 R249: in the cycle of a W1C write to IRQ_STATUS the bits the later phases set end 1, whatever the
write clears. -/
def Obligations.SetWinsOverClear : Prop :=
  ∀ (s t u : State) (c : Cycle) (w : Word), c.rst = false →
    c.bus = some (writeOf 0x010#16 w) → runCycle c s = .next t →
    runCycle { c with bus := none } { s with irqStatus := 0#6 } = .next u →
    t.irqStatus = (s.irqStatus &&& ~~~ (w.setWidth 6)) ||| u.irqStatus

/-- 60 R245, 20 R75: the `irq` output is 1 exactly when an enabled bit is pending. -/
def Obligations.IrqOutputMeansAnEnabledBitIsPending : Prop :=
  ∀ s : State, irqOutput s = true ↔
    ∃ b, b < 6 ∧ s.irqStatus.getLsbD b = true ∧ s.irqEnable.getLsbD b = true

/-- 60 R250: the TX phase and the RX and assembler phases share no state but IRQ_STATUS: their order
within a cycle does not matter. -/
def Obligations.TxAndRxAreIndependent : Prop :=
  ∀ (i : Instr) (b : Bool) (s : State), isEvent i = true →
    chain (txPhase b s) (exec i) = chain (exec i s) (txPhase b)

/-- No instruction and no cycle changes CLK_PER_MS or the bytes the host wrote to TX_MSG while a send
runs: the frame on the line is the one fixed at acceptance (41 R142). -/
def Obligations.RunningSendIsFixed : Prop :=
  ∀ s t : State, Inv s → s.tx.busy = true → t.tx.busy = true → step s = .next t →
    (∀ c rest, s.inputs = .cycle c :: rest → c.rst = false) →
    t.clkIndex = s.clkIndex ∧ t.tx.bitdur = s.tx.bitdur ∧ t.tx.len = s.tx.len ∧
    t.tx.total = s.tx.total ∧ ∀ i, i < 16 + 16 * s.tx.len.toNat → sendBit t t.tx.draw i = sendBit s s.tx.draw i
end

