-- ==== Sys2Proof/Laws/Params.lean ====
section
/-! SUPPORT. The values of the parameters (00 R12), for simp. -/

namespace Sys2Proof.Config

@[simp] theorem params_startMarker :
    params.startMarker = [true, true, true, true, false, false, false, false] := rfl
@[simp] theorem params_endMarker :
    params.endMarker = [false, false, false, false, true, true, true, true] := rfl
@[simp] theorem params_markerLen : params.markerLen = 8 := rfl
@[simp] theorem params_bufCap : params.bufCap = 10000 := rfl
@[simp] theorem params_bufKeep : params.bufKeep = 5000 := rfl
@[simp] theorem params_minDecodeLen : params.minDecodeLen = 16 := rfl
@[simp] theorem params_bitdurMin : params.bitdurMin = 50 := rfl
@[simp] theorem params_bitdurMax : params.bitdurMax = 1000 := rfl
@[simp] theorem params_txMaxChars : params.txMaxChars = 500 := rfl
@[simp] theorem params_txBufBytes : params.txBufBytes = 2000 := rfl
@[simp] theorem params_rxMsgBytes : params.rxMsgBytes = 624 := rfl
@[simp] theorem params_endSearchFrom : params.endSearchFrom = 8 := rfl
@[simp] theorem params_runMax : params.runMax = 255 := rfl
@[simp] theorem params_frameDimBits : params.frameDimBits = 16 := rfl
@[simp] theorem params_busAddrBits : params.busAddrBits = 16 := rfl
@[simp] theorem params_mailboxDepth : params.mailboxDepth = 1 := rfl
@[simp] theorem params_idValue : params.idValue = 0x57484E31 := rfl
@[simp] theorem params_txMsgBase : params.txMsgBase = 0x1000 := rfl
@[simp] theorem params_rxMsgBase : params.rxMsgBase = 0x2000 := rfl

/-- The constraints of 00 R13, with the sizes 00 R12 derives. -/
theorem params_constraints :
    params.bufKeep < params.bufCap ∧ 2 * params.markerLen ≤ params.minDecodeLen ∧
    1 ≤ params.bitdurMin ∧ params.stableReset.toNat ≤ params.runMax ∧
    params.startMarker.length = params.markerLen ∧ params.endMarker.length = params.markerLen ∧
    params.txBufBytes = 4 * params.txMaxChars ∧
    params.rxMsgBytes = (params.bufCap - 2 * params.markerLen) / 16 := by decide

end Sys2Proof.Config
end

