-- ==== Sys2Proof/Laws/Codec.lean ====
section
/-! SUPPORT. Small lemmas of the framer, the deframer and the bit buffer. -/

namespace Sys2Proof.Machine

/-! ### Search -/

theorem findFrom_nil (p : Bits) (i : Nat) :
    findFrom p [] i = if p.isPrefixOf [] then some i else none := by
  simp only [findFrom]

theorem findFrom_cons (p : Bits) (b : Bool) (t : Bits) (i : Nat) :
    findFrom p (b :: t) i = if p.isPrefixOf (b :: t) then some i else findFrom p t (i + 1) := by
  simp only [findFrom]

/-- Where a search finds a pattern, the pattern fits. -/
theorem findFrom_bounds {p s : Bits} {i j : Nat} (h : findFrom p s i = some j) :
    i ≤ j ∧ j + p.length ≤ i + s.length := by
  induction s generalizing i with
  | nil =>
    rw [findFrom_nil] at h
    split at h
    · rename_i hp
      have := (List.isPrefixOf_iff_prefix.mp hp).length_le
      cases h; omega
    · cases h
  | cons b t ih =>
    rw [findFrom_cons] at h
    split at h
    · rename_i hp
      have := (List.isPrefixOf_iff_prefix.mp hp).length_le
      cases h; omega
    · have := ih h
      simp only [List.length_cons]; omega

theorem findBits_bounds {s p : Bits} {k j : Nat} (h : findBits s p k = some j) :
    k ≤ j ∧ j + p.length ≤ s.length := by
  unfold findBits at h
  split at h
  · have := findFrom_bounds h
    rw [List.length_drop] at this; omega
  · cases h

/-! ### Frames -/

/-- 40 R104. -/
@[simp] theorem frameLength_eq (len : Nat) : frameLength len = 16 + 16 * len := by
  unfold frameLength; rw [Config.params_markerLen]; omega

/-! ### Payloads -/

theorem rawBitsOf_length {k : Nat} {p raw : Bits} (h : rawBitsOf k p = .ok raw) :
    p.length = 2 * raw.length := by
  induction k, p using rawBitsOf.induct generalizing raw with
  | case1 k => simp only [rawBitsOf] at h; cases h; rfl
  | case2 k b => simp only [rawBitsOf] at h; cases h
  | case3 k b t => simp only [rawBitsOf, ↓reduceIte] at h; cases h
  | case4 k a b t hab rest hrest ih =>
    simp only [rawBitsOf, hab, ↓reduceIte, hrest] at h
    cases h
    have := ih hrest
    simp only [List.length_cons]; omega
  | case5 k a b t hab e he ih =>
    simp only [rawBitsOf, hab, ↓reduceIte, he] at h; cases h

theorem bytesOfRaw_length (raw : Bits) : (bytesOfRaw raw).length = raw.length / 8 := by
  induction raw using bytesOfRaw.induct with
  | case1 b0 b1 b2 b3 b4 b5 b6 b7 t ih =>
    simp only [bytesOfRaw, List.length_cons, ih]; omega
  | case2 raw h =>
    have hlt : raw.length < 8 := by
      by_contra hge
      match raw, h with
      | b0 :: b1 :: b2 :: b3 :: b4 :: b5 :: b6 :: b7 :: t, h => exact h b0 b1 b2 b3 b4 b5 b6 b7 t rfl
      | [], _ | [_], _ | [_, _], _ | [_, _, _], _ | [_, _, _, _], _ => simp at hge
      | [_, _, _, _, _], _ | [_, _, _, _, _, _], _ | [_, _, _, _, _, _, _], _ => simp at hge
    rw [bytesOfRaw]
    · simp; omega
    · exact h

/-- A payload of a message has 16 line bits a byte. -/
theorem decodePayload_length {p : Bits} {bs : List Byte} (h : decodePayload p = .ok bs) :
    p.length = 16 * bs.length := by
  unfold decodePayload at h
  split at h
  · cases h
  · split at h
    · cases h
    · rename_i raw hraw
      split at h
      · cases h
      · split at h
        · cases h
          have := rawBitsOf_length hraw
          rw [bytesOfRaw_length]; omega
        · cases h

/-- A decoded message fits between two markers: 16 + 16 L line bits (40 R104). -/
theorem decodeFrame_length {bits : Bits} {bs : List Byte} (h : decodeFrame bits = .ok bs) :
    16 + 16 * bs.length ≤ bits.length := by
  unfold decodeFrame at h
  split at h
  · cases h
  · split at h
    · cases h
    · rename_i s hs _ e he
      have h1 := findBits_bounds hs
      have h2 := findBits_bounds he
      have h3 := decodePayload_length h
      simp only [List.length_drop, List.length_take] at h3
      simp at h1 h2 h3
      omega

/-! ### The bit buffer -/

theorem lastBits_length (k : Nat) (s : Bits) : (lastBits k s).length = min k s.length := by
  unfold lastBits; rw [List.length_drop]; omega

/-- The buffer never exceeds its capacity, whatever it held before (43 R207). -/
theorem pushBit_length_le (buf : Bits) (b : Bool) : (pushBit buf b).length ≤ 10000 := by
  unfold pushBit
  split
  · rw [lastBits_length]; simp
  · rename_i h; simpa using h

theorem mailboxBytes_length {bs : List Byte} (h : bs.length ≤ 624) : (mailboxBytes bs).length = 624 := by
  unfold mailboxBytes; simp; omega

/-- The mailbox holds the message, then zeros (43 R206). -/
theorem mailboxBytes_getElem? {bs : List Byte} (h : bs.length ≤ 624) {j : Nat} (hj : j < 624) :
    (mailboxBytes bs)[j]? = some (bs.getD j 0#8) := by
  unfold mailboxBytes
  rw [List.getElem?_append]
  split
  · rename_i hlt; simp [hlt]
  · rename_i hge
    rw [List.getElem?_replicate, if_pos (by simp; omega)]
    simp [List.getElem?_eq_none (Nat.le_of_not_lt hge)]

end Sys2Proof.Machine
end

