-- ==== Sys2Proof/Laws/State.lean ====
section
/-! SUPPORT. What each named update of the state does to each of its fields, one lemma a field. -/

namespace Sys2Proof.Machine

/-! ### setIrq -/

@[simp] theorem setIrq_cmdStatus (b : Irq) (s : State) : (setIrq b s).cmdStatus = s.cmdStatus := rfl
@[simp] theorem setIrq_cfg (b : Irq) (s : State) : (setIrq b s).cfg = s.cfg := rfl
@[simp] theorem setIrq_irqStatus (b : Irq) (s : State) :
    (setIrq b s).irqStatus = s.irqStatus ||| irqMask b := rfl
@[simp] theorem setIrq_irqEnable (b : Irq) (s : State) : (setIrq b s).irqEnable = s.irqEnable := rfl
@[simp] theorem setIrq_err (b : Irq) (s : State) : (setIrq b s).err = s.err := rfl
@[simp] theorem setIrq_tx (b : Irq) (s : State) : (setIrq b s).tx = s.tx := rfl
@[simp] theorem setIrq_rx (b : Irq) (s : State) : (setIrq b s).rx = s.rx := rfl
@[simp] theorem setIrq_asm (b : Irq) (s : State) : (setIrq b s).asm = s.asm := rfl
@[simp] theorem setIrq_mem (b : Irq) (s : State) : (setIrq b s).mem = s.mem := rfl
@[simp] theorem setIrq_busResp (b : Irq) (s : State) : (setIrq b s).busResp = s.busResp := rfl
@[simp] theorem setIrq_clkIndex (b : Irq) (s : State) : (setIrq b s).clkIndex = s.clkIndex := rfl
@[simp] theorem setIrq_freshDraw (b : Irq) (s : State) : (setIrq b s).freshDraw = s.freshDraw := rfl
@[simp] theorem setIrq_inputs (b : Irq) (s : State) : (setIrq b s).inputs = s.inputs := rfl

/-! ### setErr -/

@[simp] theorem setErr_cmdStatus (c : ErrCause) (s : State) : (setErr c s).cmdStatus = s.cmdStatus := rfl
@[simp] theorem setErr_cfg (c : ErrCause) (s : State) : (setErr c s).cfg = s.cfg := rfl
@[simp] theorem setErr_irqStatus (c : ErrCause) (s : State) : (setErr c s).irqStatus = s.irqStatus := rfl
@[simp] theorem setErr_irqEnable (c : ErrCause) (s : State) : (setErr c s).irqEnable = s.irqEnable := rfl
@[simp] theorem setErr_err (c : ErrCause) (s : State) : (setErr c s).err = s.err ||| errMask c := rfl
@[simp] theorem setErr_tx (c : ErrCause) (s : State) : (setErr c s).tx = s.tx := rfl
@[simp] theorem setErr_rx (c : ErrCause) (s : State) : (setErr c s).rx = s.rx := rfl
@[simp] theorem setErr_asm (c : ErrCause) (s : State) : (setErr c s).asm = s.asm := rfl
@[simp] theorem setErr_mem (c : ErrCause) (s : State) : (setErr c s).mem = s.mem := rfl
@[simp] theorem setErr_busResp (c : ErrCause) (s : State) : (setErr c s).busResp = s.busResp := rfl
@[simp] theorem setErr_clkIndex (c : ErrCause) (s : State) : (setErr c s).clkIndex = s.clkIndex := rfl
@[simp] theorem setErr_freshDraw (c : ErrCause) (s : State) : (setErr c s).freshDraw = s.freshDraw := rfl
@[simp] theorem setErr_inputs (c : ErrCause) (s : State) : (setErr c s).inputs = s.inputs := rfl

/-! ### clearIrq -/

@[simp] theorem clearIrq_cmdStatus (w : Word) (s : State) : (clearIrq w s).cmdStatus = s.cmdStatus := rfl
@[simp] theorem clearIrq_cfg (w : Word) (s : State) : (clearIrq w s).cfg = s.cfg := rfl
@[simp] theorem clearIrq_irqStatus (w : Word) (s : State) :
    (clearIrq w s).irqStatus = s.irqStatus &&& ~~~ (w.setWidth 6) := rfl
@[simp] theorem clearIrq_irqEnable (w : Word) (s : State) : (clearIrq w s).irqEnable = s.irqEnable := rfl
@[simp] theorem clearIrq_err (w : Word) (s : State) : (clearIrq w s).err = s.err := rfl
@[simp] theorem clearIrq_tx (w : Word) (s : State) : (clearIrq w s).tx = s.tx := rfl
@[simp] theorem clearIrq_rx (w : Word) (s : State) : (clearIrq w s).rx = s.rx := rfl
@[simp] theorem clearIrq_asm (w : Word) (s : State) : (clearIrq w s).asm = s.asm := rfl
@[simp] theorem clearIrq_mem (w : Word) (s : State) : (clearIrq w s).mem = s.mem := rfl
@[simp] theorem clearIrq_busResp (w : Word) (s : State) : (clearIrq w s).busResp = s.busResp := rfl
@[simp] theorem clearIrq_clkIndex (w : Word) (s : State) : (clearIrq w s).clkIndex = s.clkIndex := rfl
@[simp] theorem clearIrq_freshDraw (w : Word) (s : State) : (clearIrq w s).freshDraw = s.freshDraw := rfl
@[simp] theorem clearIrq_inputs (w : Word) (s : State) : (clearIrq w s).inputs = s.inputs := rfl

/-! ### clearErr -/

@[simp] theorem clearErr_cmdStatus (w : Word) (s : State) : (clearErr w s).cmdStatus = s.cmdStatus := rfl
@[simp] theorem clearErr_cfg (w : Word) (s : State) : (clearErr w s).cfg = s.cfg := rfl
@[simp] theorem clearErr_irqStatus (w : Word) (s : State) : (clearErr w s).irqStatus = s.irqStatus := rfl
@[simp] theorem clearErr_irqEnable (w : Word) (s : State) : (clearErr w s).irqEnable = s.irqEnable := rfl
@[simp] theorem clearErr_err (w : Word) (s : State) : (clearErr w s).err = s.err &&& ~~~ (w.setWidth 3) := rfl
@[simp] theorem clearErr_tx (w : Word) (s : State) : (clearErr w s).tx = s.tx := rfl
@[simp] theorem clearErr_rx (w : Word) (s : State) : (clearErr w s).rx = s.rx := rfl
@[simp] theorem clearErr_asm (w : Word) (s : State) : (clearErr w s).asm = s.asm := rfl
@[simp] theorem clearErr_mem (w : Word) (s : State) : (clearErr w s).mem = s.mem := rfl
@[simp] theorem clearErr_busResp (w : Word) (s : State) : (clearErr w s).busResp = s.busResp := rfl
@[simp] theorem clearErr_clkIndex (w : Word) (s : State) : (clearErr w s).clkIndex = s.clkIndex := rfl
@[simp] theorem clearErr_freshDraw (w : Word) (s : State) : (clearErr w s).freshDraw = s.freshDraw := rfl
@[simp] theorem clearErr_inputs (w : Word) (s : State) : (clearErr w s).inputs = s.inputs := rfl

/-! ### cmdResult -/

@[simp] theorem cmdResult_cmdStatus (o : BitVec 8) (c : CmdCode) (s : State) :
    (cmdResult o c s).cmdStatus = ⟨c, o⟩ := rfl
@[simp] theorem cmdResult_cfg (o : BitVec 8) (c : CmdCode) (s : State) : (cmdResult o c s).cfg = s.cfg := rfl
@[simp] theorem cmdResult_irqStatus (o : BitVec 8) (c : CmdCode) (s : State) :
    (cmdResult o c s).irqStatus = s.irqStatus := rfl
@[simp] theorem cmdResult_irqEnable (o : BitVec 8) (c : CmdCode) (s : State) :
    (cmdResult o c s).irqEnable = s.irqEnable := rfl
@[simp] theorem cmdResult_err (o : BitVec 8) (c : CmdCode) (s : State) : (cmdResult o c s).err = s.err := rfl
@[simp] theorem cmdResult_tx (o : BitVec 8) (c : CmdCode) (s : State) : (cmdResult o c s).tx = s.tx := rfl
@[simp] theorem cmdResult_rx (o : BitVec 8) (c : CmdCode) (s : State) : (cmdResult o c s).rx = s.rx := rfl
@[simp] theorem cmdResult_asm (o : BitVec 8) (c : CmdCode) (s : State) : (cmdResult o c s).asm = s.asm := rfl
@[simp] theorem cmdResult_mem (o : BitVec 8) (c : CmdCode) (s : State) : (cmdResult o c s).mem = s.mem := rfl
@[simp] theorem cmdResult_busResp (o : BitVec 8) (c : CmdCode) (s : State) :
    (cmdResult o c s).busResp = s.busResp := rfl
@[simp] theorem cmdResult_clkIndex (o : BitVec 8) (c : CmdCode) (s : State) :
    (cmdResult o c s).clkIndex = s.clkIndex := rfl
@[simp] theorem cmdResult_freshDraw (o : BitVec 8) (c : CmdCode) (s : State) :
    (cmdResult o c s).freshDraw = s.freshDraw := rfl
@[simp] theorem cmdResult_inputs (o : BitVec 8) (c : CmdCode) (s : State) :
    (cmdResult o c s).inputs = s.inputs := rfl

/-! ### rejectCommand -/

@[simp] theorem rejectCommand_cmdStatus (o : BitVec 8) (c : CmdCode) (s : State) :
    (rejectCommand o c s).cmdStatus = ⟨c, o⟩ := rfl
@[simp] theorem rejectCommand_cfg (o : BitVec 8) (c : CmdCode) (s : State) :
    (rejectCommand o c s).cfg = s.cfg := rfl
@[simp] theorem rejectCommand_irqStatus (o : BitVec 8) (c : CmdCode) (s : State) :
    (rejectCommand o c s).irqStatus = s.irqStatus ||| irqMask .cmdErr := rfl
@[simp] theorem rejectCommand_irqEnable (o : BitVec 8) (c : CmdCode) (s : State) :
    (rejectCommand o c s).irqEnable = s.irqEnable := rfl
@[simp] theorem rejectCommand_err (o : BitVec 8) (c : CmdCode) (s : State) :
    (rejectCommand o c s).err = s.err := rfl
@[simp] theorem rejectCommand_tx (o : BitVec 8) (c : CmdCode) (s : State) :
    (rejectCommand o c s).tx = s.tx := rfl
@[simp] theorem rejectCommand_rx (o : BitVec 8) (c : CmdCode) (s : State) :
    (rejectCommand o c s).rx = s.rx := rfl
@[simp] theorem rejectCommand_asm (o : BitVec 8) (c : CmdCode) (s : State) :
    (rejectCommand o c s).asm = s.asm := rfl
@[simp] theorem rejectCommand_mem (o : BitVec 8) (c : CmdCode) (s : State) :
    (rejectCommand o c s).mem = s.mem := rfl
@[simp] theorem rejectCommand_busResp (o : BitVec 8) (c : CmdCode) (s : State) :
    (rejectCommand o c s).busResp = s.busResp := rfl
@[simp] theorem rejectCommand_clkIndex (o : BitVec 8) (c : CmdCode) (s : State) :
    (rejectCommand o c s).clkIndex = s.clkIndex := rfl
@[simp] theorem rejectCommand_freshDraw (o : BitVec 8) (c : CmdCode) (s : State) :
    (rejectCommand o c s).freshDraw = s.freshDraw := rfl
@[simp] theorem rejectCommand_inputs (o : BitVec 8) (c : CmdCode) (s : State) :
    (rejectCommand o c s).inputs = s.inputs := rfl

/-! ### failSession -/

@[simp] theorem failSession_cmdStatus (c : ErrCause) (s : State) :
    (failSession c s).cmdStatus = s.cmdStatus := rfl
@[simp] theorem failSession_cfg (c : ErrCause) (s : State) : (failSession c s).cfg = s.cfg := rfl
@[simp] theorem failSession_irqStatus (c : ErrCause) (s : State) :
    (failSession c s).irqStatus = s.irqStatus ||| irqMask .rxErr := rfl
@[simp] theorem failSession_irqEnable (c : ErrCause) (s : State) :
    (failSession c s).irqEnable = s.irqEnable := rfl
@[simp] theorem failSession_err (c : ErrCause) (s : State) :
    (failSession c s).err = s.err ||| errMask c := rfl
@[simp] theorem failSession_tx (c : ErrCause) (s : State) : (failSession c s).tx = s.tx := rfl
@[simp] theorem failSession_rx (c : ErrCause) (s : State) :
    (failSession c s).rx = { s.rx with session := .idle, hold := false } := rfl
@[simp] theorem failSession_asm (c : ErrCause) (s : State) : (failSession c s).asm = s.asm := rfl
@[simp] theorem failSession_mem (c : ErrCause) (s : State) : (failSession c s).mem = s.mem := rfl
@[simp] theorem failSession_busResp (c : ErrCause) (s : State) : (failSession c s).busResp = s.busResp := rfl
@[simp] theorem failSession_clkIndex (c : ErrCause) (s : State) :
    (failSession c s).clkIndex = s.clkIndex := rfl
@[simp] theorem failSession_freshDraw (c : ErrCause) (s : State) :
    (failSession c s).freshDraw = s.freshDraw := rfl
@[simp] theorem failSession_inputs (c : ErrCause) (s : State) : (failSession c s).inputs = s.inputs := rfl

/-! ### respond -/

@[simp] theorem respond_cmdStatus (v : Word) (e : Bool) (s : State) :
    (respond v e s).cmdStatus = s.cmdStatus := rfl
@[simp] theorem respond_cfg (v : Word) (e : Bool) (s : State) : (respond v e s).cfg = s.cfg := rfl
@[simp] theorem respond_irqStatus (v : Word) (e : Bool) (s : State) :
    (respond v e s).irqStatus = s.irqStatus := rfl
@[simp] theorem respond_irqEnable (v : Word) (e : Bool) (s : State) :
    (respond v e s).irqEnable = s.irqEnable := rfl
@[simp] theorem respond_err (v : Word) (e : Bool) (s : State) : (respond v e s).err = s.err := rfl
@[simp] theorem respond_tx (v : Word) (e : Bool) (s : State) : (respond v e s).tx = s.tx := rfl
@[simp] theorem respond_rx (v : Word) (e : Bool) (s : State) : (respond v e s).rx = s.rx := rfl
@[simp] theorem respond_asm (v : Word) (e : Bool) (s : State) : (respond v e s).asm = s.asm := rfl
@[simp] theorem respond_mem (v : Word) (e : Bool) (s : State) : (respond v e s).mem = s.mem := rfl
@[simp] theorem respond_busResp (v : Word) (e : Bool) (s : State) :
    (respond v e s).busResp = some ⟨v, e⟩ := rfl
@[simp] theorem respond_clkIndex (v : Word) (e : Bool) (s : State) :
    (respond v e s).clkIndex = s.clkIndex := rfl
@[simp] theorem respond_freshDraw (v : Word) (e : Bool) (s : State) :
    (respond v e s).freshDraw = s.freshDraw := rfl
@[simp] theorem respond_inputs (v : Word) (e : Bool) (s : State) : (respond v e s).inputs = s.inputs := rfl

/-! ### noResponse -/

@[simp] theorem noResponse_cmdStatus (s : State) : (noResponse s).cmdStatus = s.cmdStatus := rfl
@[simp] theorem noResponse_cfg (s : State) : (noResponse s).cfg = s.cfg := rfl
@[simp] theorem noResponse_irqStatus (s : State) : (noResponse s).irqStatus = s.irqStatus := rfl
@[simp] theorem noResponse_irqEnable (s : State) : (noResponse s).irqEnable = s.irqEnable := rfl
@[simp] theorem noResponse_err (s : State) : (noResponse s).err = s.err := rfl
@[simp] theorem noResponse_tx (s : State) : (noResponse s).tx = s.tx := rfl
@[simp] theorem noResponse_rx (s : State) : (noResponse s).rx = s.rx := rfl
@[simp] theorem noResponse_asm (s : State) : (noResponse s).asm = s.asm := rfl
@[simp] theorem noResponse_mem (s : State) : (noResponse s).mem = s.mem := rfl
@[simp] theorem noResponse_busResp (s : State) : (noResponse s).busResp = none := rfl
@[simp] theorem noResponse_clkIndex (s : State) : (noResponse s).clkIndex = s.clkIndex := rfl
@[simp] theorem noResponse_freshDraw (s : State) : (noResponse s).freshDraw = s.freshDraw := rfl
@[simp] theorem noResponse_inputs (s : State) : (noResponse s).inputs = s.inputs := rfl

/-! ### countSkip -/

@[simp] theorem countSkip_cmdStatus (s : State) : (countSkip s).cmdStatus = s.cmdStatus := rfl
@[simp] theorem countSkip_cfg (s : State) : (countSkip s).cfg = s.cfg := rfl
@[simp] theorem countSkip_irqStatus (s : State) : (countSkip s).irqStatus = s.irqStatus := rfl
@[simp] theorem countSkip_irqEnable (s : State) : (countSkip s).irqEnable = s.irqEnable := rfl
@[simp] theorem countSkip_err (s : State) : (countSkip s).err = s.err := rfl
@[simp] theorem countSkip_tx (s : State) : (countSkip s).tx = s.tx := rfl
@[simp] theorem countSkip_rx (s : State) :
    (countSkip s).rx = { s.rx with skipCount := s.rx.skipCount + 1#32 } := rfl
@[simp] theorem countSkip_asm (s : State) : (countSkip s).asm = s.asm := rfl
@[simp] theorem countSkip_mem (s : State) : (countSkip s).mem = s.mem := rfl
@[simp] theorem countSkip_busResp (s : State) : (countSkip s).busResp = s.busResp := rfl
@[simp] theorem countSkip_clkIndex (s : State) : (countSkip s).clkIndex = s.clkIndex := rfl
@[simp] theorem countSkip_freshDraw (s : State) : (countSkip s).freshDraw = s.freshDraw := rfl
@[simp] theorem countSkip_inputs (s : State) : (countSkip s).inputs = s.inputs := rfl

/-! ### countFrame -/

@[simp] theorem countFrame_cmdStatus (s : State) : (countFrame s).cmdStatus = s.cmdStatus := rfl
@[simp] theorem countFrame_cfg (s : State) : (countFrame s).cfg = s.cfg := rfl
@[simp] theorem countFrame_irqStatus (s : State) : (countFrame s).irqStatus = s.irqStatus := rfl
@[simp] theorem countFrame_irqEnable (s : State) : (countFrame s).irqEnable = s.irqEnable := rfl
@[simp] theorem countFrame_err (s : State) : (countFrame s).err = s.err := rfl
@[simp] theorem countFrame_tx (s : State) : (countFrame s).tx = s.tx := rfl
@[simp] theorem countFrame_rx (s : State) :
    (countFrame s).rx = { s.rx with frameCount := s.rx.frameCount + 1#32 } := rfl
@[simp] theorem countFrame_asm (s : State) : (countFrame s).asm = s.asm := rfl
@[simp] theorem countFrame_mem (s : State) : (countFrame s).mem = s.mem := rfl
@[simp] theorem countFrame_busResp (s : State) : (countFrame s).busResp = s.busResp := rfl
@[simp] theorem countFrame_clkIndex (s : State) : (countFrame s).clkIndex = s.clkIndex := rfl
@[simp] theorem countFrame_freshDraw (s : State) : (countFrame s).freshDraw = s.freshDraw := rfl
@[simp] theorem countFrame_inputs (s : State) : (countFrame s).inputs = s.inputs := rfl

/-! ### setLastObs -/

@[simp] theorem setLastObs_cmdStatus (o : Bool) (s : State) : (setLastObs o s).cmdStatus = s.cmdStatus := rfl
@[simp] theorem setLastObs_cfg (o : Bool) (s : State) : (setLastObs o s).cfg = s.cfg := rfl
@[simp] theorem setLastObs_irqStatus (o : Bool) (s : State) : (setLastObs o s).irqStatus = s.irqStatus := rfl
@[simp] theorem setLastObs_irqEnable (o : Bool) (s : State) : (setLastObs o s).irqEnable = s.irqEnable := rfl
@[simp] theorem setLastObs_err (o : Bool) (s : State) : (setLastObs o s).err = s.err := rfl
@[simp] theorem setLastObs_tx (o : Bool) (s : State) : (setLastObs o s).tx = s.tx := rfl
@[simp] theorem setLastObs_rx (o : Bool) (s : State) : (setLastObs o s).rx = { s.rx with lastObs := o } := rfl
@[simp] theorem setLastObs_asm (o : Bool) (s : State) : (setLastObs o s).asm = s.asm := rfl
@[simp] theorem setLastObs_mem (o : Bool) (s : State) : (setLastObs o s).mem = s.mem := rfl
@[simp] theorem setLastObs_busResp (o : Bool) (s : State) : (setLastObs o s).busResp = s.busResp := rfl
@[simp] theorem setLastObs_clkIndex (o : Bool) (s : State) : (setLastObs o s).clkIndex = s.clkIndex := rfl
@[simp] theorem setLastObs_freshDraw (o : Bool) (s : State) : (setLastObs o s).freshDraw = s.freshDraw := rfl
@[simp] theorem setLastObs_inputs (o : Bool) (s : State) : (setLastObs o s).inputs = s.inputs := rfl

/-! ### setCandidate -/

@[simp] theorem setCandidate_cmdStatus (v : Bool) (n : BitVec 8) (s : State) :
    (setCandidate v n s).cmdStatus = s.cmdStatus := rfl
@[simp] theorem setCandidate_cfg (v : Bool) (n : BitVec 8) (s : State) :
    (setCandidate v n s).cfg = s.cfg := rfl
@[simp] theorem setCandidate_irqStatus (v : Bool) (n : BitVec 8) (s : State) :
    (setCandidate v n s).irqStatus = s.irqStatus := rfl
@[simp] theorem setCandidate_irqEnable (v : Bool) (n : BitVec 8) (s : State) :
    (setCandidate v n s).irqEnable = s.irqEnable := rfl
@[simp] theorem setCandidate_err (v : Bool) (n : BitVec 8) (s : State) :
    (setCandidate v n s).err = s.err := rfl
@[simp] theorem setCandidate_tx (v : Bool) (n : BitVec 8) (s : State) : (setCandidate v n s).tx = s.tx := rfl
@[simp] theorem setCandidate_rx (v : Bool) (n : BitVec 8) (s : State) :
    (setCandidate v n s).rx = { s.rx with candValid := true, candVal := v, candRun := n } := rfl
@[simp] theorem setCandidate_asm (v : Bool) (n : BitVec 8) (s : State) :
    (setCandidate v n s).asm = s.asm := rfl
@[simp] theorem setCandidate_mem (v : Bool) (n : BitVec 8) (s : State) :
    (setCandidate v n s).mem = s.mem := rfl
@[simp] theorem setCandidate_busResp (v : Bool) (n : BitVec 8) (s : State) :
    (setCandidate v n s).busResp = s.busResp := rfl
@[simp] theorem setCandidate_clkIndex (v : Bool) (n : BitVec 8) (s : State) :
    (setCandidate v n s).clkIndex = s.clkIndex := rfl
@[simp] theorem setCandidate_freshDraw (v : Bool) (n : BitVec 8) (s : State) :
    (setCandidate v n s).freshDraw = s.freshDraw := rfl
@[simp] theorem setCandidate_inputs (v : Bool) (n : BitVec 8) (s : State) :
    (setCandidate v n s).inputs = s.inputs := rfl

/-! ### emit -/

@[simp] theorem emit_cmdStatus (b : Bool) (sum cnt : Nat) (s : State) :
    (emit b sum cnt s).cmdStatus = s.cmdStatus := rfl
@[simp] theorem emit_cfg (b : Bool) (sum cnt : Nat) (s : State) : (emit b sum cnt s).cfg = s.cfg := rfl
@[simp] theorem emit_irqStatus (b : Bool) (sum cnt : Nat) (s : State) :
    (emit b sum cnt s).irqStatus = s.irqStatus ||| irqMask .rxBit := rfl
@[simp] theorem emit_irqEnable (b : Bool) (sum cnt : Nat) (s : State) :
    (emit b sum cnt s).irqEnable = s.irqEnable := rfl
@[simp] theorem emit_err (b : Bool) (sum cnt : Nat) (s : State) : (emit b sum cnt s).err = s.err := rfl
@[simp] theorem emit_tx (b : Bool) (sum cnt : Nat) (s : State) : (emit b sum cnt s).tx = s.tx := rfl
@[simp] theorem emit_asm (b : Bool) (sum cnt : Nat) (s : State) : (emit b sum cnt s).asm = s.asm := rfl
@[simp] theorem emit_mem (b : Bool) (sum cnt : Nat) (s : State) : (emit b sum cnt s).mem = s.mem := rfl
@[simp] theorem emit_busResp (b : Bool) (sum cnt : Nat) (s : State) :
    (emit b sum cnt s).busResp = s.busResp := rfl
@[simp] theorem emit_clkIndex (b : Bool) (sum cnt : Nat) (s : State) :
    (emit b sum cnt s).clkIndex = s.clkIndex := rfl
@[simp] theorem emit_freshDraw (b : Bool) (sum cnt : Nat) (s : State) :
    (emit b sum cnt s).freshDraw = s.freshDraw := rfl
@[simp] theorem emit_inputs (b : Bool) (sum cnt : Nat) (s : State) :
    (emit b sum cnt s).inputs = s.inputs := rfl

/-! ### recordDecode -/

@[simp] theorem recordDecode_cmdStatus (r : Except FrameError (List Byte)) (s : State) :
    (recordDecode r s).cmdStatus = s.cmdStatus := rfl
@[simp] theorem recordDecode_cfg (r : Except FrameError (List Byte)) (s : State) :
    (recordDecode r s).cfg = s.cfg := rfl
@[simp] theorem recordDecode_irqStatus (r : Except FrameError (List Byte)) (s : State) :
    (recordDecode r s).irqStatus = s.irqStatus := rfl
@[simp] theorem recordDecode_irqEnable (r : Except FrameError (List Byte)) (s : State) :
    (recordDecode r s).irqEnable = s.irqEnable := rfl
@[simp] theorem recordDecode_err (r : Except FrameError (List Byte)) (s : State) :
    (recordDecode r s).err = s.err := rfl
@[simp] theorem recordDecode_tx (r : Except FrameError (List Byte)) (s : State) :
    (recordDecode r s).tx = s.tx := rfl
@[simp] theorem recordDecode_rx (r : Except FrameError (List Byte)) (s : State) :
    (recordDecode r s).rx = s.rx := rfl
@[simp] theorem recordDecode_asm (r : Except FrameError (List Byte)) (s : State) :
    (recordDecode r s).asm = { s.asm with decCode := decCodeOf r, decPos := decPosOf r, decCount := s.asm.decCount + 1#32 } := rfl
@[simp] theorem recordDecode_mem (r : Except FrameError (List Byte)) (s : State) :
    (recordDecode r s).mem = s.mem := rfl
@[simp] theorem recordDecode_busResp (r : Except FrameError (List Byte)) (s : State) :
    (recordDecode r s).busResp = s.busResp := rfl
@[simp] theorem recordDecode_clkIndex (r : Except FrameError (List Byte)) (s : State) :
    (recordDecode r s).clkIndex = s.clkIndex := rfl
@[simp] theorem recordDecode_freshDraw (r : Except FrameError (List Byte)) (s : State) :
    (recordDecode r s).freshDraw = s.freshDraw := rfl
@[simp] theorem recordDecode_inputs (r : Except FrameError (List Byte)) (s : State) :
    (recordDecode r s).inputs = s.inputs := rfl

/-! ### deliver -/

@[simp] theorem deliver_cmdStatus (bs : List Byte) (s : State) :
    (deliver bs s).cmdStatus = s.cmdStatus := by unfold deliver; split <;> rfl
@[simp] theorem deliver_cfg (bs : List Byte) (s : State) :
    (deliver bs s).cfg = s.cfg := by unfold deliver; split <;> rfl
@[simp] theorem deliver_irqStatus (bs : List Byte) (s : State) :
    (deliver bs s).irqStatus = s.irqStatus ||| irqMask .rxMsg := by unfold deliver; split <;> rfl
@[simp] theorem deliver_irqEnable (bs : List Byte) (s : State) :
    (deliver bs s).irqEnable = s.irqEnable := by unfold deliver; split <;> rfl
/-- A mailbox of one message is full exactly when it holds one (10 R55). -/
@[simp] theorem mailboxFull_eq (a : Asm) : mailboxFull a = a.msgValid := by
  unfold mailboxFull; cases a.msgValid <;> rfl

@[simp] theorem deliver_err (bs : List Byte) (s : State) :
    (deliver bs s).err = if s.asm.msgValid then s.err ||| errMask .msgOverrun else s.err := by
  unfold deliver; rw [mailboxFull_eq]; split <;> simp_all
@[simp] theorem deliver_tx (bs : List Byte) (s : State) :
    (deliver bs s).tx = s.tx := by unfold deliver; split <;> rfl
@[simp] theorem deliver_rx (bs : List Byte) (s : State) :
    (deliver bs s).rx = s.rx := by unfold deliver; split <;> rfl
@[simp] theorem deliver_asm (bs : List Byte) (s : State) :
    (deliver bs s).asm = { s.asm with msgLen := BitVec.ofNat 10 bs.length, msgValid := true, msgCount := s.asm.msgCount + 1#32 } := by unfold deliver; split <;> rfl
@[simp] theorem deliver_mem (bs : List Byte) (s : State) :
    (deliver bs s).mem = writeMem s.mem 0x2000 (mailboxBytes bs) := by unfold deliver; split <;> rfl
@[simp] theorem deliver_busResp (bs : List Byte) (s : State) :
    (deliver bs s).busResp = s.busResp := by unfold deliver; split <;> rfl
@[simp] theorem deliver_clkIndex (bs : List Byte) (s : State) :
    (deliver bs s).clkIndex = s.clkIndex := by unfold deliver; split <;> rfl
@[simp] theorem deliver_freshDraw (bs : List Byte) (s : State) :
    (deliver bs s).freshDraw = s.freshDraw := by unfold deliver; split <;> rfl
@[simp] theorem deliver_inputs (bs : List Byte) (s : State) :
    (deliver bs s).inputs = s.inputs := by unfold deliver; split <;> rfl

/-! ### acceptSend -/

@[simp] theorem acceptSend_cmdStatus (n d : Nat) (s : State) :
    (acceptSend n d s).cmdStatus = ⟨.accepted, 1#8⟩ := rfl
@[simp] theorem acceptSend_cfg (n d : Nat) (s : State) : (acceptSend n d s).cfg = s.cfg := rfl
@[simp] theorem acceptSend_irqStatus (n d : Nat) (s : State) :
    (acceptSend n d s).irqStatus = s.irqStatus ||| irqMask .txBit := rfl
@[simp] theorem acceptSend_irqEnable (n d : Nat) (s : State) :
    (acceptSend n d s).irqEnable = s.irqEnable := rfl
@[simp] theorem acceptSend_err (n d : Nat) (s : State) : (acceptSend n d s).err = s.err := rfl
@[simp] theorem acceptSend_rx (n d : Nat) (s : State) : (acceptSend n d s).rx = s.rx := rfl
@[simp] theorem acceptSend_asm (n d : Nat) (s : State) : (acceptSend n d s).asm = s.asm := rfl
@[simp] theorem acceptSend_mem (n d : Nat) (s : State) : (acceptSend n d s).mem = s.mem := rfl
@[simp] theorem acceptSend_busResp (n d : Nat) (s : State) : (acceptSend n d s).busResp = s.busResp := rfl
@[simp] theorem acceptSend_clkIndex (n d : Nat) (s : State) : (acceptSend n d s).clkIndex = s.clkIndex := rfl
@[simp] theorem acceptSend_freshDraw (n d : Nat) (s : State) :
    (acceptSend n d s).freshDraw = s.freshDraw := rfl
@[simp] theorem acceptSend_inputs (n d : Nat) (s : State) : (acceptSend n d s).inputs = s.inputs := rfl

/-! ### startGuard -/

@[simp] theorem startGuard_cmdStatus (s : State) : (startGuard s).cmdStatus = s.cmdStatus := rfl
@[simp] theorem startGuard_cfg (s : State) : (startGuard s).cfg = s.cfg := rfl
@[simp] theorem startGuard_irqStatus (s : State) : (startGuard s).irqStatus = s.irqStatus := rfl
@[simp] theorem startGuard_irqEnable (s : State) : (startGuard s).irqEnable = s.irqEnable := rfl
@[simp] theorem startGuard_err (s : State) : (startGuard s).err = s.err := rfl
@[simp] theorem startGuard_rx (s : State) : (startGuard s).rx = s.rx := rfl
@[simp] theorem startGuard_asm (s : State) : (startGuard s).asm = s.asm := rfl
@[simp] theorem startGuard_mem (s : State) : (startGuard s).mem = s.mem := rfl
@[simp] theorem startGuard_busResp (s : State) : (startGuard s).busResp = s.busResp := rfl
@[simp] theorem startGuard_clkIndex (s : State) : (startGuard s).clkIndex = s.clkIndex := rfl
@[simp] theorem startGuard_freshDraw (s : State) : (startGuard s).freshDraw = s.freshDraw := rfl
@[simp] theorem startGuard_inputs (s : State) : (startGuard s).inputs = s.inputs := rfl

/-! ### startNextBit -/

@[simp] theorem startNextBit_cmdStatus (s : State) : (startNextBit s).cmdStatus = s.cmdStatus := rfl
@[simp] theorem startNextBit_cfg (s : State) : (startNextBit s).cfg = s.cfg := rfl
@[simp] theorem startNextBit_irqStatus (s : State) :
    (startNextBit s).irqStatus = s.irqStatus ||| irqMask .txBit := rfl
@[simp] theorem startNextBit_irqEnable (s : State) : (startNextBit s).irqEnable = s.irqEnable := rfl
@[simp] theorem startNextBit_err (s : State) : (startNextBit s).err = s.err := rfl
@[simp] theorem startNextBit_rx (s : State) : (startNextBit s).rx = s.rx := rfl
@[simp] theorem startNextBit_asm (s : State) : (startNextBit s).asm = s.asm := rfl
@[simp] theorem startNextBit_mem (s : State) : (startNextBit s).mem = s.mem := rfl
@[simp] theorem startNextBit_busResp (s : State) : (startNextBit s).busResp = s.busResp := rfl
@[simp] theorem startNextBit_clkIndex (s : State) : (startNextBit s).clkIndex = s.clkIndex := rfl
@[simp] theorem startNextBit_freshDraw (s : State) : (startNextBit s).freshDraw = s.freshDraw := rfl
@[simp] theorem startNextBit_inputs (s : State) : (startNextBit s).inputs = s.inputs := rfl

/-! ### endSend -/

@[simp] theorem endSend_cmdStatus (s : State) : (endSend s).cmdStatus = s.cmdStatus := rfl
@[simp] theorem endSend_cfg (s : State) : (endSend s).cfg = s.cfg := rfl
@[simp] theorem endSend_irqStatus (s : State) : (endSend s).irqStatus = s.irqStatus ||| irqMask .txDone := rfl
@[simp] theorem endSend_irqEnable (s : State) : (endSend s).irqEnable = s.irqEnable := rfl
@[simp] theorem endSend_err (s : State) : (endSend s).err = s.err := rfl
@[simp] theorem endSend_rx (s : State) : (endSend s).rx = s.rx := rfl
@[simp] theorem endSend_asm (s : State) : (endSend s).asm = s.asm := rfl
@[simp] theorem endSend_mem (s : State) : (endSend s).mem = s.mem := rfl
@[simp] theorem endSend_busResp (s : State) : (endSend s).busResp = s.busResp := rfl
@[simp] theorem endSend_clkIndex (s : State) : (endSend s).clkIndex = s.clkIndex := rfl
@[simp] theorem endSend_freshDraw (s : State) : (endSend s).freshDraw = s.freshDraw := rfl
@[simp] theorem endSend_inputs (s : State) : (endSend s).inputs = s.inputs := rfl

/-! ### writeCfg -/

@[simp] theorem writeCfg_cmdStatus (w : Word) (s : State) : (writeCfg w s).cmdStatus = s.cmdStatus := rfl
@[simp] theorem writeCfg_cfg (w : Word) (s : State) :
    (writeCfg w s).cfg = ⟨w.extractLsb' 0 8, w.extractLsb' 8 8, w.extractLsb' 16 8⟩ := rfl
@[simp] theorem writeCfg_irqStatus (w : Word) (s : State) : (writeCfg w s).irqStatus = s.irqStatus := rfl
@[simp] theorem writeCfg_irqEnable (w : Word) (s : State) : (writeCfg w s).irqEnable = s.irqEnable := rfl
@[simp] theorem writeCfg_err (w : Word) (s : State) : (writeCfg w s).err = s.err := rfl
@[simp] theorem writeCfg_tx (w : Word) (s : State) : (writeCfg w s).tx = s.tx := rfl
@[simp] theorem writeCfg_rx (w : Word) (s : State) : (writeCfg w s).rx = s.rx := rfl
@[simp] theorem writeCfg_asm (w : Word) (s : State) : (writeCfg w s).asm = s.asm := rfl
@[simp] theorem writeCfg_mem (w : Word) (s : State) : (writeCfg w s).mem = s.mem := rfl
@[simp] theorem writeCfg_busResp (w : Word) (s : State) : (writeCfg w s).busResp = s.busResp := rfl
@[simp] theorem writeCfg_clkIndex (w : Word) (s : State) : (writeCfg w s).clkIndex = s.clkIndex := rfl
@[simp] theorem writeCfg_freshDraw (w : Word) (s : State) : (writeCfg w s).freshDraw = s.freshDraw := rfl
@[simp] theorem writeCfg_inputs (w : Word) (s : State) : (writeCfg w s).inputs = s.inputs := rfl

/-! ### takeDraw -/

@[simp] theorem takeDraw_cmdStatus (r : Reg) (s : State) :
    (takeDraw r s).cmdStatus = s.cmdStatus := by cases r <;> rfl
@[simp] theorem takeDraw_cfg (r : Reg) (s : State) : (takeDraw r s).cfg = s.cfg := by cases r <;> rfl
@[simp] theorem takeDraw_irqStatus (r : Reg) (s : State) :
    (takeDraw r s).irqStatus = s.irqStatus := by cases r <;> rfl
@[simp] theorem takeDraw_irqEnable (r : Reg) (s : State) :
    (takeDraw r s).irqEnable = s.irqEnable := by cases r <;> rfl
@[simp] theorem takeDraw_err (r : Reg) (s : State) : (takeDraw r s).err = s.err := by cases r <;> rfl
@[simp] theorem takeDraw_tx (r : Reg) (s : State) : (takeDraw r s).tx = s.tx := by cases r <;> rfl
@[simp] theorem takeDraw_rx (r : Reg) (s : State) : (takeDraw r s).rx = s.rx := by cases r <;> rfl
@[simp] theorem takeDraw_asm (r : Reg) (s : State) : (takeDraw r s).asm = s.asm := by cases r <;> rfl
@[simp] theorem takeDraw_mem (r : Reg) (s : State) : (takeDraw r s).mem = s.mem := by cases r <;> rfl
@[simp] theorem takeDraw_busResp (r : Reg) (s : State) :
    (takeDraw r s).busResp = s.busResp := by cases r <;> rfl
@[simp] theorem takeDraw_clkIndex (r : Reg) (s : State) :
    (takeDraw r s).clkIndex = s.clkIndex := by cases r <;> rfl
@[simp] theorem takeDraw_inputs (r : Reg) (s : State) : (takeDraw r s).inputs = s.inputs := by cases r <;> rfl

end Sys2Proof.Machine
end

