-- ==== Sys2Proof/Laws/Memory.lean ====
section
/-! SUPPORT. The bytes of the message windows: read after write, and that a write keeps the canonical form. -/

namespace Sys2Proof.Machine

theorem readMem_nil (a : Nat) : readMem [] a = none := rfl

theorem readMem_cons (c : Host.Cell) (m : Memory) (a : Nat) :
    readMem (c :: m) a = if c.1 = a then some c.2 else readMem m a := by
  unfold readMem
  rw [List.lookup_cons]
  by_cases h : c.1 = a
  · simp [h]
  · simp [h, beq_eq_false_iff_ne.mpr (Ne.symm h)]

theorem readMem_append (m n : Memory) (a : Nat) :
    readMem (m ++ n) a = (readMem m a).or (readMem n a) := by
  induction m with
  | nil => simp [readMem_nil]
  | cons c m ih =>
    rw [List.cons_append, readMem_cons, readMem_cons, ih]
    split <;> simp

theorem readMem_filter (p : Nat → Bool) (m : Memory) (a : Nat) :
    readMem (m.filter fun c => p c.1) a = if p a then readMem m a else none := by
  induction m with
  | nil => simp [readMem_nil]
  | cons c m ih =>
    by_cases hc : p c.1 = true
    · rw [List.filter_cons, if_pos hc, readMem_cons, readMem_cons, ih]
      by_cases h : c.1 = a
      · subst h; simp [hc]
      · simp [h]
    · rw [List.filter_cons, if_neg hc, readMem_cons, ih]
      by_cases h : c.1 = a
      · subst h; simp [hc]
      · simp [h]

theorem readMem_cellsAt (base : Nat) (bs : List Byte) (a : Nat) :
    readMem (cellsAt base bs) a = if base ≤ a then bs[a - base]? else none := by
  induction bs generalizing base with
  | nil => simp [cellsAt, readMem_nil]
  | cons b bs ih =>
    rw [cellsAt, readMem_cons, ih]
    by_cases h : base = a
    · subst h; simp
    · by_cases h' : base + 1 ≤ a
      · have : a - base = (a - (base + 1)) + 1 := by omega
        simp [h, h', this, show base ≤ a by omega]
      · simp [h, h', show ¬ base ≤ a by omega]

/-- A read after a write: the byte written in its range, the old byte elsewhere. -/
theorem readMem_writeMem (m : Memory) (base : Nat) (bs : List Byte) (a : Nat) :
    readMem (writeMem m base bs) a =
      if base ≤ a ∧ a < base + bs.length then bs[a - base]? else readMem m a := by
  unfold writeMem
  rw [readMem_append, readMem_append, readMem_filter (fun x => decide (x < base)),
    readMem_filter (fun x => decide (base + bs.length ≤ x)), readMem_cellsAt]
  by_cases h1 : base ≤ a
  · by_cases h2 : a < base + bs.length
    · have : bs[a - base]? = some bs[a - base] := List.getElem?_eq_getElem (by omega)
      simp [h1, h2, this, show ¬ a < base by omega]
    · have : bs[a - base]? = none := List.getElem?_eq_none (by omega)
      simp [h1, h2, this, show base + bs.length ≤ a by omega, show ¬ a < base by omega]
  · simp [h1, show a < base by omega, show ¬ base + bs.length ≤ a by omega]

/-- A write leaves every byte outside its range alone. -/
theorem readMem_writeMem_of_outside {m : Memory} {base : Nat} {bs : List Byte} {a : Nat}
    (h : a < base ∨ base + bs.length ≤ a) : readMem (writeMem m base bs) a = readMem m a := by
  rw [readMem_writeMem, if_neg (by omega)]

theorem byteOrFree_writeMem_of_outside {m : Memory} {base : Nat} {bs : List Byte} {d a : Nat}
    (h : a < base ∨ base + bs.length ≤ a) :
    byteOrFree (writeMem m base bs) d a = byteOrFree m d a := by
  unfold byteOrFree; rw [readMem_writeMem_of_outside h]

theorem mem_cellsAt {base : Nat} {bs : List Byte} {c : Host.Cell} (h : c ∈ cellsAt base bs) :
    base ≤ c.1 ∧ c.1 < base + bs.length := by
  induction bs generalizing base with
  | nil => simp [cellsAt] at h
  | cons b bs ih =>
    rw [cellsAt, List.mem_cons] at h
    rcases h with rfl | h
    · simp
    · have := ih h
      simp only [List.length_cons]; omega

theorem wf_cellsAt (base : Nat) (bs : List Byte) : (cellsAt base bs).wf := by
  induction bs generalizing base with
  | nil => exact List.Pairwise.nil
  | cons b bs ih =>
    refine List.Pairwise.cons (fun c hc => ?_) (ih (base + 1))
    have := mem_cellsAt hc
    show base < c.1
    omega

/-- A write keeps the canonical form. -/
theorem wf_writeMem {m : Memory} (h : m.wf) (base : Nat) (bs : List Byte) :
    (writeMem m base bs).wf := by
  unfold writeMem Memory.wf
  rw [List.pairwise_append, List.pairwise_append]
  refine ⟨⟨List.Pairwise.filter _ h, wf_cellsAt base bs, ?_⟩, List.Pairwise.filter _ h, ?_⟩
  · intro a ha b hb
    have h1 := (List.mem_filter.mp ha).2
    have h2 := mem_cellsAt hb
    simp only [decide_eq_true_eq] at h1; omega
  · intro a ha b hb
    have h3 := (List.mem_filter.mp hb).2
    simp only [decide_eq_true_eq] at h3
    rcases List.mem_append.mp ha with ha | ha
    · have h1 := (List.mem_filter.mp ha).2
      simp only [decide_eq_true_eq] at h1; omega
    · have := mem_cellsAt ha; omega

/-- What is listed after a write was listed before or lies in the written range. -/
theorem mem_writeMem {m : Memory} {base : Nat} {bs : List Byte} {c : Host.Cell}
    (h : c ∈ writeMem m base bs) : c ∈ m ∨ (base ≤ c.1 ∧ c.1 < base + bs.length) := by
  unfold writeMem at h
  rcases List.mem_append.mp h with h | h
  · rcases List.mem_append.mp h with h | h
    · exact .inl (List.mem_filter.mp h).1
    · exact .inr (mem_cellsAt h)
  · exact .inl (List.mem_filter.mp h).1

/-- The bytes of a word, put together again (20 R64). -/
theorem wordOfBytes_bytesOfWord (w : Word) :
    wordOfBytes (w.extractLsb' 0 8) (w.extractLsb' 8 8) (w.extractLsb' 16 8) (w.extractLsb' 24 8) = w := by
  unfold wordOfBytes
  ext i hi
  simp only [BitVec.getElem_append, BitVec.getElem_extractLsb']
  split
  · simp [BitVec.getLsbD_eq_getElem hi]
  · split
    · rw [show 8 + (i - 8) = i by omega]; simp [BitVec.getLsbD_eq_getElem hi]
    · split
      · rw [show 16 + (i - 8 - 8) = i by omega]; simp [BitVec.getLsbD_eq_getElem hi]
      · rw [show 24 + (i - 8 - 8 - 8) = i by omega]; simp [BitVec.getLsbD_eq_getElem hi]

end Sys2Proof.Machine
end

