-- ==== Sys2Proof/Laws/Operands.lean ====
section
/-! SUPPORT. What the tests on operands mean, and the register a bus address names, range by range. -/

namespace Sys2Proof.Machine

/-- 41 R141. -/
theorem validBitdur_iff (d : BitVec 16) : validBitdur d = true ↔ 50 ≤ d.toNat ∧ d.toNat ≤ 1000 := by
  unfold validBitdur
  rw [Bool.and_eq_true, decide_eq_true_iff, decide_eq_true_iff]

theorem onLastBit_iff (t : Tx) : onLastBit t = true ↔ t.bitIndex.toNat + 1 = t.total.toNat := by
  unfold onLastBit
  rw [decide_eq_true_iff]

theorem nextBitInFrame_iff (t : Tx) : nextBitInFrame t = true ↔
    t.len.toNat ≤ 2000 ∧ t.total.toNat = 16 + 16 * t.len.toNat ∧
      t.bitIndex.toNat + 1 < t.total.toNat := by
  unfold nextBitInFrame
  rw [Bool.and_eq_true, Bool.and_eq_true, decide_eq_true_iff, decide_eq_true_iff, decide_eq_true_iff,
    and_assoc, frameLength_eq]

/-- 42 R181. -/
theorem stableRun_iff (stable run : BitVec 8) :
    stableRun stable run = true ↔ max stable.toNat 1 ≤ run.toNat := by
  unfold stableRun
  rw [decide_eq_true_iff]

/-- 42 R177. -/
theorem observed_iff (thresh : BitVec 8) (sum cnt : Nat) :
    observed thresh sum cnt = true ↔ thresh.toNat * cnt < sum := by
  unfold observed
  rw [decide_eq_true_iff]

/-- The number of a concatenation. -/
theorem toNat_append_eq {n m : Nat} (x : BitVec n) (y : BitVec m) :
    (x ++ y).toNat = x.toNat * 2 ^ m + y.toNat := by
  rw [BitVec.toNat_append, ← Nat.shiftLeft_add_eq_or_of_lt y.isLt, Nat.shiftLeft_eq]

/-! ### The address map (20 R62) -/

theorem regAt_txMsg {a : Nat} (h : 0x1000 ≤ a) (h' : a < 0x17D0) :
    regAt a = some (.txMsg ((a - 0x1000) / 4)) := by
  have hin : Config.params.txMsgBase ≤ a ∧ a < Config.params.txMsgBase + Config.params.txBufBytes :=
    ⟨h, h'⟩
  unfold regAt
  rw [if_pos hin]

theorem regAt_rxMsg {a : Nat} (h : 0x2000 ≤ a) (h' : a < 0x2270) :
    regAt a = some (.rxMsg ((a - 0x2000) / 4)) := by
  have hout : ¬ (Config.params.txMsgBase ≤ a ∧
      a < Config.params.txMsgBase + Config.params.txBufBytes) := by
    rw [Config.params_txMsgBase, Config.params_txBufBytes]; omega
  have hin : Config.params.rxMsgBase ≤ a ∧ a < Config.params.rxMsgBase + Config.params.rxMsgBytes :=
    ⟨h, h'⟩
  unfold regAt
  rw [if_neg hout, if_pos hin]

/-- Outside the two windows an address names a single register or nothing. -/
theorem regAt_table {a : Nat} (h : ¬ (0x1000 ≤ a ∧ a < 0x17D0)) (h' : ¬ (0x2000 ≤ a ∧ a < 0x2270)) :
    regAt a = List.lookup a regTable := by
  have h1 : ¬ (Config.params.txMsgBase ≤ a ∧
      a < Config.params.txMsgBase + Config.params.txBufBytes) := h
  have h2 : ¬ (Config.params.rxMsgBase ≤ a ∧
      a < Config.params.rxMsgBase + Config.params.rxMsgBytes) := h'
  unfold regAt
  rw [if_neg h1, if_neg h2]

/-- A legal access is four bytes at an aligned mapped address (20 R63, R65). -/
theorem accessedReg_of_legal {a : BusAccess} (hs : a.size = 2#2) (h4 : a.addr.toNat % 4 = 0) :
    accessedReg a = regAt a.addr.toNat := by
  unfold accessedReg
  rw [if_pos ⟨hs, h4⟩]

/-- The same for an access written out: the register of a numeral address is found by `rfl`. -/
theorem accessedReg_at {write : Bool} {a : BitVec 16} {w : Word} {r : Reg} (h4 : a.toNat % 4 = 0)
    (h : regAt a.toNat = some r) : accessedReg ⟨write, a, 2#2, w⟩ = some r :=
  (accessedReg_of_legal rfl h4).trans h

theorem accessedReg_of_illegal {a : BusAccess} (h : a.size ≠ 2#2 ∨ a.addr.toNat % 4 ≠ 0) :
    accessedReg a = none := by
  unfold accessedReg
  rw [if_neg (by tauto)]

end Sys2Proof.Machine
end

