-- ==== Sys2Proof/Laws/PerInstr.lean ====
section
/-! SUPPORT. Statements about every instruction as syntax, one lemma a constructor of `Instr`.
RoundTrip: the decoder gives a well-formed instruction back from its encoding (30 R80, R83, R84, R86 to R90). -/

namespace Sys2Proof.Laws.RoundTrip

/-- Decoding an instruction's encoding gives the instruction back. -/
def Statement (i : Instr) : Prop := i.wellFormed = true → decode (encode i) = .ok i

theorem nop : Statement .nop := fun _ => rfl
theorem txSend : Statement .txSend := fun _ => rfl
theorem txStop : Statement .txStop := fun _ => rfl
theorem rxStart : Statement .rxStart := fun _ => rfl
theorem rxStop : Statement .rxStop := fun _ => rfl
theorem rxMsgAck : Statement .rxMsgAck := fun _ => rfl

theorem reserved0607 (low : BitVec 1) : Statement (.reserved0607 low) := by
  intro _; revert low; decide

theorem reserved080F (low : BitVec 3) : Statement (.reserved080F low) := by
  intro _; revert low; decide

theorem reserved101F (low : BitVec 4) : Statement (.reserved101F low) := by
  intro _; revert low; decide

theorem reserved203F (low : BitVec 5) : Statement (.reserved203F low) := by
  intro _; revert low; decide

theorem reserved407F (low : BitVec 6) : Statement (.reserved407F low) := by
  intro _; revert low; decide +kernel

theorem reserved80FF (low : BitVec 7) : Statement (.reserved80FF low) := by
  intro _; revert low; decide +kernel

theorem illegalRsv (rsv : BitVec 24) (opcode : BitVec 8) : Statement (.illegalRsv rsv opcode) := by
  intro h
  simp only [Instr.wellFormed, decide_eq_true_eq] at h
  have hrsv : (rsv ++ opcode).extractLsb' 8 24 = rsv := by
    ext i hi
    simp only [BitVec.getElem_extractLsb', BitVec.getLsbD_append]
    simp [hi]
  have hop : (rsv ++ opcode).setWidth 8 = opcode := by
    ext i hi
    simp only [BitVec.getElem_setWidth, BitVec.getLsbD_append]
    simp [hi]
  simp only [encode, decode, decodeCommand, hrsv, hop]
  simp [h]

theorem evtNone : Statement .evtNone := fun _ => rfl
theorem evtOpenOk : Statement .evtOpenOk := fun _ => rfl
theorem evtOpenFail : Statement .evtOpenFail := fun _ => rfl
theorem evtFrame (frame : Frame) : Statement (.evtFrame frame) := fun _ => rfl
theorem evtFrameFail : Statement .evtFrameFail := fun _ => rfl
theorem evtFatal : Statement .evtFatal := fun _ => rfl

theorem evtReserved (low : BitVec 1) : Statement (.evtReserved low) := by
  intro _; revert low; decide

theorem startMarker : Statement .startMarker := fun _ => rfl
theorem endMarker : Statement .endMarker := fun _ => rfl
theorem pairRaw0 : Statement .pairRaw0 := fun _ => rfl
theorem pairRaw1 : Statement .pairRaw1 := fun _ => rfl
theorem pairInvalid00 : Statement .pairInvalid00 := fun _ => rfl
theorem pairInvalid11 : Statement .pairInvalid11 := fun _ => rfl

end Sys2Proof.Laws.RoundTrip
end

