-- ==== Sys2Proof/Laws/Transitions.lean ====
section
/-! SUPPORT. What each shared operation can do, said once: sequencing, an append, a debounce, a sampled
frame, the TX phase, a command word, the bus phase, a cycle. -/

namespace Sys2Proof.Machine

/-! ### Sequencing -/

@[simp] theorem chain_next (s : State) (f : State → Result) : chain (.next s) f = f s := rfl
@[simp] theorem chain_fault (e : Fault) (f : State → Result) : chain (.fault e) f = .fault e := rfl
@[simp] theorem chain_refused (e : Refusal) (f : State → Result) : chain (.refused e) f = .refused e := rfl

/-- A sequence answers a next state when both parts do. -/
theorem chain_eq_next {r : Result} {f : State → Result} {t : State} :
    chain r f = .next t ↔ ∃ s, r = .next s ∧ f s = .next t := by
  cases r <;> simp

/-! ### The assembler -/

/-- The state after the buffer took a bit, before any decode. -/
theorem append_eq (b : Bool) (s : State) :
    append b s =
      if 16 ≤ (pushBit s.asm.buf b).length then
        attemptDecode { s with asm := { s.asm with buf := pushBit s.asm.buf b } }
      else { s with asm := { s.asm with buf := pushBit s.asm.buf b } } := rfl

theorem attemptDecode_error {s : State} {e : FrameError} (h : decodeFrame s.asm.buf = .error e) :
    attemptDecode s = recordDecode (.error e) s := by
  unfold attemptDecode; rw [h]

theorem attemptDecode_ok {s : State} {bs : List Byte} (h : decodeFrame s.asm.buf = .ok bs) :
    attemptDecode s =
      { deliver bs (recordDecode (.ok bs) s) with
        asm := { (deliver bs (recordDecode (.ok bs) s)).asm with buf := [] } } := by
  unfold attemptDecode; rw [h]

/-- An append stores the bit and does no more, or records a failed decode, or delivers a message and
clears the buffer (43 R201). -/
theorem append_cases (b : Bool) (s : State) :
    ((pushBit s.asm.buf b).length < 16 ∧
      append b s = { s with asm := { s.asm with buf := pushBit s.asm.buf b } }) ∨
    (∃ e, 16 ≤ (pushBit s.asm.buf b).length ∧ decodeFrame (pushBit s.asm.buf b) = .error e ∧
      append b s =
        recordDecode (.error e) { s with asm := { s.asm with buf := pushBit s.asm.buf b } }) ∨
    (∃ bs, 16 ≤ (pushBit s.asm.buf b).length ∧ decodeFrame (pushBit s.asm.buf b) = .ok bs ∧
      append b s =
        { deliver bs (recordDecode (.ok bs) s) with
          asm := { (deliver bs (recordDecode (.ok bs) s)).asm with buf := [] } }) := by
  rw [append_eq]
  split
  · rename_i h16
    cases h : decodeFrame (pushBit s.asm.buf b) with
    | error e => exact .inr (.inl ⟨e, h16, rfl, attemptDecode_error h⟩)
    | ok bs =>
      refine .inr (.inr ⟨bs, h16, rfl, ?_⟩)
      rw [attemptDecode_ok h]
      unfold deliver recordDecode setErr setIrq
      simp only [mailboxFull_eq]
      split <;> rfl
  · rename_i h16
    exact .inl ⟨by omega, rfl⟩

/-- What an append leaves alone. -/
structure SameButAssembler (s t : State) : Prop where
  cmdStatus : t.cmdStatus = s.cmdStatus
  cfg : t.cfg = s.cfg
  irqEnable : t.irqEnable = s.irqEnable
  tx : t.tx = s.tx
  rx : t.rx = s.rx
  busResp : t.busResp = s.busResp
  clkIndex : t.clkIndex = s.clkIndex
  freshDraw : t.freshDraw = s.freshDraw
  inputs : t.inputs = s.inputs

theorem SameButAssembler.refl (s : State) : SameButAssembler s s := by constructor <;> rfl

theorem SameButAssembler.trans {s t u : State} (h : SameButAssembler s t) (k : SameButAssembler t u) :
    SameButAssembler s u := by
  constructor
  · rw [k.cmdStatus, h.cmdStatus]
  · rw [k.cfg, h.cfg]
  · rw [k.irqEnable, h.irqEnable]
  · rw [k.tx, h.tx]
  · rw [k.rx, h.rx]
  · rw [k.busResp, h.busResp]
  · rw [k.clkIndex, h.clkIndex]
  · rw [k.freshDraw, h.freshDraw]
  · rw [k.inputs, h.inputs]

/-- An append touches the assembler, the mailbox's bytes, IRQ_STATUS and ERR only. -/
theorem append_same (b : Bool) (s : State) : SameButAssembler s (append b s) := by
  rcases append_cases b s with ⟨-, h⟩ | ⟨e, -, -, h⟩ | ⟨bs, -, -, h⟩ <;> rw [h] <;>
    constructor <;> simp

theorem appendAll_nil (s : State) : appendAll [] s = s := rfl

theorem appendAll_cons (b : Bool) (bs : Bits) (s : State) :
    appendAll (b :: bs) s = appendAll bs (append b s) := rfl

theorem appendAll_append (as bs : Bits) (s : State) :
    appendAll (as ++ bs) s = appendAll bs (appendAll as s) := by
  unfold appendAll; rw [List.foldl_append]

theorem appendAll_same (bs : Bits) (s : State) : SameButAssembler s (appendAll bs s) := by
  induction bs generalizing s with
  | nil => exact .refl s
  | cons b bs ih => exact (append_same b s).trans (ih (append b s))

/-- A message the decoder gives from a buffer fits the mailbox. -/
theorem decoded_length_le {buf : Bits} {b : Bool} {bs : List Byte}
    (h : decodeFrame (pushBit buf b) = .ok bs) : bs.length ≤ 624 := by
  have := decodeFrame_length h
  have := pushBit_length_le buf b
  omega

/-- An append leaves every byte outside RX_MSG alone. -/
theorem append_readMem (b : Bool) (s : State) {a : Nat} (ha : a < 0x2000 ∨ 0x2270 ≤ a) :
    readMem (append b s).mem a = readMem s.mem a := by
  rcases append_cases b s with ⟨-, h⟩ | ⟨e, -, -, h⟩ | ⟨bs, -, hd, h⟩ <;> rw [h]
  · simp
  · have hl := mailboxBytes_length (decoded_length_le hd)
    simp only [deliver_mem, recordDecode_mem]
    exact readMem_writeMem_of_outside (by omega)

theorem appendAll_readMem (bs : Bits) (s : State) {a : Nat} (ha : a < 0x2000 ∨ 0x2270 ≤ a) :
    readMem (appendAll bs s).mem a = readMem s.mem a := by
  induction bs generalizing s with
  | nil => rfl
  | cons b bs ih => rw [appendAll_cons, ih, append_readMem b s ha]

/-! ### The sampler -/

/-- Debounce starts a candidate, lengthens its run, or ends the run, emitting it if stable (42 R180). -/
theorem debounce_cases (obs : Bool) (sum cnt : Nat) (s : State) :
    (s.rx.candValid = false ∧ debounce obs sum cnt s = (setCandidate obs 1#8 s, none)) ∨
    (s.rx.candValid = true ∧ obs = s.rx.candVal ∧
      debounce obs sum cnt s = (setCandidate obs (nextRun s.rx.candRun) s, none)) ∨
    (s.rx.candValid = true ∧ obs ≠ s.rx.candVal ∧ stableRun s.cfg.stable s.rx.candRun = true ∧
      debounce obs sum cnt s = (setCandidate obs 1#8 (emit s.rx.candVal sum cnt s), some s.rx.candVal)) ∨
    (s.rx.candValid = true ∧ obs ≠ s.rx.candVal ∧ stableRun s.cfg.stable s.rx.candRun = false ∧
      debounce obs sum cnt s = (setCandidate obs 1#8 s, none)) := by
  unfold debounce
  cases hv : s.rx.candValid
  · simp
  · by_cases ho : obs = s.rx.candVal
    · simp [ho]
    · cases hs : stableRun s.cfg.stable s.rx.candRun <;> simp [ho]

/-- A FRAME in ACTIVE is skipped if its region is empty and debounced otherwise (42 R178). -/
theorem sampleFrame_eq (f : Frame) (s : State) :
    sampleFrame f s =
      if regionCount f s.cfg.halfw.toNat = 0 then (countSkip (countFrame s), none)
      else
        debounce (observed s.cfg.thresh (regionSum f s.cfg.halfw.toNat) (regionCount f s.cfg.halfw.toNat))
          (regionSum f s.cfg.halfw.toNat) (regionCount f s.cfg.halfw.toNat)
          (setLastObs
            (observed s.cfg.thresh (regionSum f s.cfg.halfw.toNat) (regionCount f s.cfg.halfw.toNat))
            (countFrame s)) := rfl

/-- What sampling a frame leaves alone. -/
structure SameButSampler (s t : State) : Prop where
  cmdStatus : t.cmdStatus = s.cmdStatus
  cfg : t.cfg = s.cfg
  irqEnable : t.irqEnable = s.irqEnable
  err : t.err = s.err
  tx : t.tx = s.tx
  asm : t.asm = s.asm
  mem : t.mem = s.mem
  busResp : t.busResp = s.busResp
  clkIndex : t.clkIndex = s.clkIndex
  freshDraw : t.freshDraw = s.freshDraw
  inputs : t.inputs = s.inputs

/-- Debounce touches the candidate, the emission registers and IRQ_STATUS only. -/
theorem debounce_same (obs : Bool) (sum cnt : Nat) (s : State) :
    SameButSampler s (debounce obs sum cnt s).1 := by
  rcases debounce_cases obs sum cnt s with ⟨-, h⟩ | ⟨-, -, h⟩ | ⟨-, -, -, h⟩ | ⟨-, -, -, h⟩ <;>
    rw [h] <;> constructor <;> simp

/-- Sampling a frame touches the sampler's registers and IRQ_STATUS only. -/
theorem sampleFrame_same (f : Frame) (s : State) : SameButSampler s (sampleFrame f s).1 := by
  rw [sampleFrame_eq]
  split
  · constructor <;> simp
  · obtain ⟨h1, h2, h3, h4, h5, h6, h7, h8, h9, h10, h11⟩ := debounce_same
      (observed s.cfg.thresh (regionSum f s.cfg.halfw.toNat) (regionCount f s.cfg.halfw.toNat))
      (regionSum f s.cfg.halfw.toNat) (regionCount f s.cfg.halfw.toNat)
      (setLastObs
        (observed s.cfg.thresh (regionSum f s.cfg.halfw.toNat) (regionCount f s.cfg.halfw.toNat))
        (countFrame s))
    constructor <;> simp_all

/-! ### The TX phase -/

/-- The TX phase does nothing when idle, counts down, starts the guard, starts the next bit, or ends the
send (41 R149 to R152); it stops only where the next bit is outside the frame. -/
theorem txPhase_cases (b : Bool) (s : State) :
    (b = false ∧ txPhase b s = .next s) ∨
    (b = true ∧ s.tx.timer ≠ 0#32 ∧
      txPhase b s = .next { s with tx := { s.tx with timer := s.tx.timer - 1#32 } }) ∨
    (b = true ∧ s.tx.timer = 0#32 ∧ s.tx.phase = .bits ∧ (s.tx.cancel || onLastBit s.tx) = true ∧
      txPhase b s = .next (startGuard s)) ∨
    (b = true ∧ s.tx.timer = 0#32 ∧ s.tx.phase = .bits ∧ (s.tx.cancel || onLastBit s.tx) = false ∧
      nextBitInFrame s.tx = true ∧ txPhase b s = .next (startNextBit s)) ∨
    (b = true ∧ s.tx.timer = 0#32 ∧ s.tx.phase = .guard ∧ txPhase b s = .next (endSend s)) ∨
    (b = true ∧ s.tx.timer = 0#32 ∧ s.tx.phase = .bits ∧ (s.tx.cancel || onLastBit s.tx) = false ∧
      nextBitInFrame s.tx = false ∧ txPhase b s = .fault .sequencerOutsideFrame) := by
  unfold txPhase periodEnd
  cases b
  · simp
  · by_cases ht : s.tx.timer = 0#32
    · cases hp : s.tx.phase
      · cases hc : (s.tx.cancel || onLastBit s.tx)
        · cases hn : nextBitInFrame s.tx <;> simp [ht]
        · simp [ht]
      · simp [ht]
    · simp [ht]

/-- What the TX phase leaves alone. -/
structure SameButSequencer (s t : State) : Prop where
  cmdStatus : t.cmdStatus = s.cmdStatus
  cfg : t.cfg = s.cfg
  irqEnable : t.irqEnable = s.irqEnable
  err : t.err = s.err
  rx : t.rx = s.rx
  asm : t.asm = s.asm
  mem : t.mem = s.mem
  busResp : t.busResp = s.busResp
  clkIndex : t.clkIndex = s.clkIndex
  freshDraw : t.freshDraw = s.freshDraw
  inputs : t.inputs = s.inputs

/-- The TX phase touches the sequencer's registers and IRQ_STATUS only. -/
theorem txPhase_same {b : Bool} {s t : State} (h : txPhase b s = .next t) : SameButSequencer s t := by
  rcases txPhase_cases b s with ⟨-, e⟩ | ⟨-, -, e⟩ | ⟨-, -, -, -, e⟩ | ⟨-, -, -, -, -, e⟩ | ⟨-, -, -, e⟩ |
    ⟨-, -, -, -, -, e⟩ <;> rw [e] at h <;> cases h <;> constructor <;> simp [startGuard]

/-! ### Instructions, the bus phase and the cycle -/

/-- Every instruction completes in every state. -/
theorem exec_next (i : Instr) (s : State) : ∃ t, exec i s = .next t := by
  cases i <;> first
    | exact ⟨_, rfl⟩
    | (simp only [exec, execRxStart, execEvtOpenOk, execEvtOpenFail, execEvtFrameFail, execEvtFatal,
        execEvtFrame]
       split <;> exact ⟨_, rfl⟩)

/-- A word written to CMD and an event code always run an instruction (30 R88, R90). -/
theorem runCode_cmd (w : Word) (s : State) : runCode (.cmd w) s = exec (decodeCommand w) s := rfl

theorem runCode_evt (e : BitVec 3) (f : Frame) (s : State) :
    runCode (.evt e f) s = exec (decodeEvent e f) s := rfl

/-- The bus phase answers an empty cycle, refuses an illegal access, reads, or writes (20 R63, R65, R66). -/
theorem busPhase_cases (b : Option BusAccess) (s : State) :
    (b = none ∧ busPhase b s = .next (noResponse s)) ∨
    (∃ a, b = some a ∧ accessedReg a = none ∧ busPhase b s = .next (respond 0#32 true s)) ∨
    (∃ a r, b = some a ∧ accessedReg a = some r ∧ a.write = false ∧
      busPhase b s = .next (readAccess r s)) ∨
    (∃ a r, b = some a ∧ accessedReg a = some r ∧ a.write = true ∧
      busPhase b s = writeReg r a.wdata (respond 0#32 false s)) := by
  cases b with
  | none => exact .inl ⟨rfl, rfl⟩
  | some a =>
    cases hr : accessedReg a with
    | none => exact .inr (.inl ⟨a, rfl, hr, by simp only [busPhase, hr]⟩)
    | some r =>
      cases hw : a.write
      · exact .inr (.inr (.inl ⟨a, r, rfl, hr, hw, by simp [busPhase, hr, hw]⟩))
      · exact .inr (.inr (.inr ⟨a, r, rfl, hr, hw, by simp [busPhase, hr, hw]⟩))

/-- A legal write always completes. -/
theorem writeReg_next (r : Reg) (w : Word) (s : State) : ∃ t, writeReg r w s = .next t := by
  cases r <;> first | exact ⟨_, rfl⟩ | exact exec_next _ _

/-- No access stops the block (60 R243). -/
theorem busPhase_next (b : Option BusAccess) (s : State) : ∃ t, busPhase b s = .next t := by
  rcases busPhase_cases b s with ⟨-, h⟩ | ⟨a, -, -, h⟩ | ⟨a, r, -, -, -, h⟩ | ⟨a, r, -, -, -, h⟩ <;> rw [h]
  · exact ⟨_, rfl⟩
  · exact ⟨_, rfl⟩
  · exact ⟨_, rfl⟩
  · exact writeReg_next _ _ _

/-- The four phases of a cycle without reset (60 R250). -/
theorem runCycle_eq {c : Cycle} (h : c.rst = false) (s : State) :
    runCycle c s =
      chain (chain (busPhase c.bus s) (txPhase s.tx.busy)) (exec (decodeEvent c.evt c.frame)) := by
  unfold runCycle
  rw [if_neg (by rw [h]; exact Bool.false_ne_true)]
  rfl

/-- A word with RSV 0 is its OPCODE. -/
theorem eq_of_rsv_zero {w : Word} (h : w.extractLsb' 8 24 = 0#24) {op : BitVec 8}
    (hop : w.setWidth 8 = op) : w = op.setWidth 32 := by
  have hr := congrArg BitVec.toNat h
  have ho := congrArg BitVec.toNat hop
  rw [BitVec.extractLsb'_toNat, Nat.shiftRight_eq_div_pow] at hr
  rw [BitVec.toNat_setWidth] at ho
  apply BitVec.eq_of_toNat_eq
  rw [BitVec.toNat_setWidth_of_le (by decide)]
  have hz : (0#24).toNat = 0 := rfl
  rw [hz] at hr
  have := w.isLt
  omega

/-- A command word is one of the six commands, at its one word, or performs the ILLEGAL result alone
(30 R87, R88; 44 R224). -/
theorem decodeCommand_cases (w : Word) :
    (w = 0#32 ∧ decodeCommand w = .nop) ∨ (w = 1#32 ∧ decodeCommand w = .txSend) ∨
    (w = 2#32 ∧ decodeCommand w = .txStop) ∨ (w = 3#32 ∧ decodeCommand w = .rxStart) ∨
    (w = 4#32 ∧ decodeCommand w = .rxStop) ∨ (w = 5#32 ∧ decodeCommand w = .rxMsgAck) ∨
    ∃ op, ∀ s, exec (decodeCommand w) s = .next (illegalWord op s) := by
  by_cases hr : w.extractLsb' 8 24 = 0#24
  · by_cases h0 : w.setWidth 8 = 0x00#8
    · have := eq_of_rsv_zero hr h0; subst this; exact .inl ⟨rfl, rfl⟩
    by_cases h1 : w.setWidth 8 = 0x01#8
    · have := eq_of_rsv_zero hr h1; subst this; exact .inr (.inl ⟨rfl, rfl⟩)
    by_cases h2 : w.setWidth 8 = 0x02#8
    · have := eq_of_rsv_zero hr h2; subst this; exact .inr (.inr (.inl ⟨rfl, rfl⟩))
    by_cases h3 : w.setWidth 8 = 0x03#8
    · have := eq_of_rsv_zero hr h3; subst this; exact .inr (.inr (.inr (.inl ⟨rfl, rfl⟩)))
    by_cases h4 : w.setWidth 8 = 0x04#8
    · have := eq_of_rsv_zero hr h4; subst this; exact .inr (.inr (.inr (.inr (.inl ⟨rfl, rfl⟩))))
    by_cases h5 : w.setWidth 8 = 0x05#8
    · have := eq_of_rsv_zero hr h5; subst this
      exact .inr (.inr (.inr (.inr (.inr (.inl ⟨rfl, rfl⟩)))))
    refine .inr (.inr (.inr (.inr (.inr (.inr ?_)))))
    unfold decodeCommand
    dsimp only
    rw [if_neg (not_not.mpr hr), if_neg h0, if_neg h1, if_neg h2, if_neg h3, if_neg h4, if_neg h5]
    split
    · exact ⟨_, fun _ => rfl⟩
    split
    · exact ⟨_, fun _ => rfl⟩
    split
    · exact ⟨_, fun _ => rfl⟩
    split
    · exact ⟨_, fun _ => rfl⟩
    split
    · exact ⟨_, fun _ => rfl⟩
    · exact ⟨_, fun _ => rfl⟩
  · refine .inr (.inr (.inr (.inr (.inr (.inr ⟨w.setWidth 8, fun s => ?_⟩)))))
    unfold decodeCommand
    dsimp only
    rw [if_pos hr]
    rfl

/-- A command while a send runs leaves the sequencer alone, but for the cancel flag of TX_STOP. -/
theorem exec_command_busy {w : Word} {s t : State} (hb : s.tx.busy = true)
    (h : exec (decodeCommand w) s = .next t) :
    t.mem = s.mem ∧ t.clkIndex = s.clkIndex ∧ t.inputs = s.inputs ∧
      (t.tx = s.tx ∨ w = 2#32 ∧ t.tx = { s.tx with cancel := true }) := by
  rcases decodeCommand_cases w with ⟨-, e⟩ | ⟨-, e⟩ | ⟨hw, e⟩ | ⟨-, e⟩ | ⟨-, e⟩ | ⟨-, e⟩ | ⟨op, e⟩ <;>
    rw [e] at h
  case inr.inr.inl =>
    cases h
    rw [if_pos hb]
    exact ⟨rfl, rfl, rfl, .inr ⟨hw, rfl⟩⟩
  case inr.inl =>
    cases h
    unfold txSend
    rw [if_pos hb]
    exact ⟨rfl, rfl, rfl, .inl rfl⟩
  case inr.inr.inr.inl =>
    simp only [exec, execRxStart] at h
    split at h <;> cases h <;> exact ⟨rfl, rfl, rfl, .inl rfl⟩
  case inr.inr.inr.inr.inl =>
    cases h
    split <;> exact ⟨rfl, rfl, rfl, .inl rfl⟩
  all_goals cases h; exact ⟨rfl, rfl, rfl, .inl rfl⟩

/-- The bus phase while a send runs stores no transmit operand and no byte, and touches the sequencer only
by the cancel flag of a TX_STOP (41 R146, R148). -/
theorem busPhase_busy {b : Option BusAccess} {s t : State} (hb : s.tx.busy = true)
    (h : busPhase b s = .next t) :
    t.mem = s.mem ∧ t.clkIndex = s.clkIndex ∧ t.inputs = s.inputs ∧
      (t.tx = s.tx ∨ t.tx = { s.tx with cancel := true } ∧
        ∃ a, b = some a ∧ a.write = true ∧ accessedReg a = some .cmd ∧ a.wdata = 2#32) := by
  rcases busPhase_cases b s with ⟨-, e⟩ | ⟨a, -, -, e⟩ | ⟨a, r, -, -, -, e⟩ | ⟨a, r, ha, hr, hw, e⟩ <;>
    rw [e] at h
  · cases h; exact ⟨rfl, rfl, rfl, .inl rfl⟩
  · cases h; exact ⟨rfl, rfl, rfl, .inl rfl⟩
  · cases h; cases r <;> exact ⟨rfl, rfl, rfl, .inl rfl⟩
  · cases r
    case cmd =>
      obtain ⟨h1, h2, h3, h4 | ⟨h4, h5⟩⟩ := exec_command_busy (s := respond 0#32 false s) hb h
      · exact ⟨h1, h2, h3, .inl h4⟩
      · exact ⟨h1, h2, h3, .inr ⟨h5, a, ha, hw, hr, h4⟩⟩
    case txBitdur | txLen | txMsg =>
      simp only [writeReg, unlessBusy] at h
      rw [if_pos (by exact hb)] at h
      cases h; exact ⟨rfl, rfl, rfl, .inl rfl⟩
    all_goals cases h; exact ⟨rfl, rfl, rfl, .inl rfl⟩

end Sys2Proof.Machine
end

