-- ==== Sys2Proof/Tests/Slice0.lean ====
section
/-! SUPPORT. Tests of the model on values of the spec, and a witness for the hypotheses of every obligation
that has some. -/

namespace Sys2Proof.Tests

open Sys2Proof.Machine

/-! ### Helpers -/

/-- The next state an outcome answers. -/
def nextOf (r : Result) : Option State :=
  match r with
  | .next s => some s
  | .fault _ => none
  | .refused _ => none

/-- A bit string written as in the spec, first-sent first. -/
def bitsOf (ds : List Nat) : Bits := ds.map fun d => decide (d = 1)

/-- Reset, with the sequencer's registers given. -/
def withTx (bitdur len : BitVec 16) : State :=
  { State.reset with tx := { Tx.reset with bitdur := bitdur, len := len } }

/-- A send of the empty message at 50 ms in its first cycle (95 S-4). -/
def sending : State :=
  { State.reset with
    irqStatus := 0x01#6
    tx := { Tx.reset with
      bitdur := 50#16, busy := true, level := true, acquire := true, timer := 49#32
      total := 16#16, sent := 1#16, pct := 6#7, estMs := 800#32, draw := 1 } }

/-- Reset, with a receive session in this state. -/
def withSession (r : RxSession) : State :=
  { State.reset with rx := { Rx.reset with session := r, hold := decide (r ≠ .idle) } }

/-- An active session with a candidate. -/
def withCand (val : Bool) (run : BitVec 8) : State :=
  { State.reset with
    rx := { Rx.reset with session := .active, hold := true, candValid := true, candVal := val, candRun := run } }

/-- Reset, with this buffer. -/
def withBuf (b : Bits) : State :=
  { State.reset with asm := { Asm.reset with buf := b } }

/-- A frame all of whose pixels are `v`. -/
def uniform (w h : BitVec 16) (v : Byte) : Frame := ⟨w, h, v, []⟩

/-- The frame of "A" (95 2.1). -/
def frameA : Bits :=
  bitsOf [1,1,1,1,0,0,0,0, 1,0,0,1,1,0,1,0, 1,0,1,0,1,0,0,1, 0,0,0,0,1,1,1,1]

/-! ### Well-formedness: an ill-formed term for each check -/

theorem test_wellFormed_rsv_zero : Instr.wellFormed (.illegalRsv 0#24 7#8) = false := by decide

theorem test_wellFormed_pixel_outside_column :
    Instr.wellFormed (.evtFrame ⟨2#16, 2#16, 0#8, [((2, 1), 9#8)]⟩) = false := by decide

theorem test_wellFormed_pixel_outside_row :
    Instr.wellFormed (.evtFrame ⟨2#16, 2#16, 0#8, [((1, 2), 9#8)]⟩) = false := by decide

theorem test_wellFormed_pixel_inside :
    Instr.wellFormed (.evtFrame ⟨2#16, 2#16, 0#8, [((1, 1), 9#8)]⟩) = true := by decide

/-! ### Decoding: words written out from 30 R86 to R90, R80, R83, R84 -/

theorem test_decode_nop : decode (.cmd 0b00000000000000000000000000000000#32) = .ok .nop := by decide
theorem test_decode_txSend : decode (.cmd 0b00000000000000000000000000000001#32) = .ok .txSend := by decide
theorem test_decode_txStop : decode (.cmd 0b00000000000000000000000000000010#32) = .ok .txStop := by decide
theorem test_decode_rxStart : decode (.cmd 0b00000000000000000000000000000011#32) = .ok .rxStart := by decide
theorem test_decode_rxStop : decode (.cmd 0b00000000000000000000000000000100#32) = .ok .rxStop := by decide
theorem test_decode_rxMsgAck :
    decode (.cmd 0b00000000000000000000000000000101#32) = .ok .rxMsgAck := by decide
theorem test_decode_reserved0607 :
    decode (.cmd 0b00000000000000000000000000000111#32) = .ok (.reserved0607 1#1) := by decide
theorem test_decode_reserved080F :
    decode (.cmd 0b00000000000000000000000000001101#32) = .ok (.reserved080F 5#3) := by decide
theorem test_decode_reserved101F :
    decode (.cmd 0b00000000000000000000000000011010#32) = .ok (.reserved101F 10#4) := by decide
theorem test_decode_reserved203F :
    decode (.cmd 0b00000000000000000000000000110001#32) = .ok (.reserved203F 17#5) := by decide
theorem test_decode_reserved407F :
    decode (.cmd 0b00000000000000000000000001111111#32) = .ok (.reserved407F 63#6) := by decide
theorem test_decode_reserved80FF :
    decode (.cmd 0b00000000000000000000000011111111#32) = .ok (.reserved80FF 127#7) := by decide
theorem test_decode_illegalRsv :
    decode (.cmd 0b00000000000000000000000100000001#32) = .ok (.illegalRsv 1#24 1#8) := by decide
theorem test_decode_evtNone : decode (.evt 0b000#3 Frame.empty) = .ok .evtNone := by decide
theorem test_decode_evtOpenOk : decode (.evt 0b001#3 Frame.empty) = .ok .evtOpenOk := by decide
theorem test_decode_evtOpenFail : decode (.evt 0b010#3 Frame.empty) = .ok .evtOpenFail := by decide
theorem test_decode_evtFrame :
    decode (.evt 0b011#3 (uniform 8#16 8#16 129#8)) = .ok (.evtFrame (uniform 8#16 8#16 129#8)) := by decide
theorem test_decode_evtFrameFail : decode (.evt 0b100#3 Frame.empty) = .ok .evtFrameFail := by decide
theorem test_decode_evtFatal : decode (.evt 0b101#3 Frame.empty) = .ok .evtFatal := by decide
theorem test_decode_evtReserved : decode (.evt 0b111#3 Frame.empty) = .ok (.evtReserved 1#1) := by decide
theorem test_decode_startMarker :
    decode (.wire (bitsOf [1,1,1,1,0,0,0,0])) = .ok .startMarker := by decide
theorem test_decode_endMarker : decode (.wire (bitsOf [0,0,0,0,1,1,1,1])) = .ok .endMarker := by decide
theorem test_decode_pairRaw0 : decode (.wire (bitsOf [1,0])) = .ok .pairRaw0 := by decide
theorem test_decode_pairRaw1 : decode (.wire (bitsOf [0,1])) = .ok .pairRaw1 := by decide
theorem test_decode_pairInvalid00 : decode (.wire (bitsOf [0,0])) = .ok .pairInvalid00 := by decide
theorem test_decode_pairInvalid11 : decode (.wire (bitsOf [1,1])) = .ok .pairInvalid11 := by decide

/-- 30 R80: the bits of no symbol are refused. -/
theorem test_decode_no_symbol : decode (.wire (bitsOf [1,1,1])) = .error .notAWireSymbol := by decide

theorem test_decodeTableWord_command : decodeTableWord 32 0x00000105 = some (.illegalRsv 1#24 5#8) := by
  decide
theorem test_decodeTableWord_event : decodeTableWord 8 0x04 = some .evtFrameFail := by decide
theorem test_decodeTableWord_marker : decodeTableWord 8 0xF0 = some .startMarker := by decide

/-- 95 2.8: the placed instruction is the one the next step runs. -/
theorem test_withFetchWord_command :
    (nextOf (step (State.reset.withFetchWord 32 0x000000FF))).map
      (fun t => (cmdStatusWord t.cmdStatus, t.irqStatus)) = some (0x0000FF05#32, 0x20#6) := by decide

theorem test_withFetchWord_marker :
    (nextOf (step (State.reset.withFetchWord 8 0xF0))).map (fun t => t.asm.buf)
      = some (bitsOf [1,1,1,1,0,0,0,0]) := by decide

/-! ### Commands (95 2.3, 2.5, 2.8) -/

/-- 44 R222: after reset `CMD NOP` gives 0x00000001. -/
theorem test_nop_status :
    (nextOf (exec .nop State.reset)).map (fun t => cmdStatusWord t.cmdStatus) = some 0x00000001#32 := by
  decide

/-- 95 S-1: TX_BITDUR = 0. -/
theorem test_txSend_bitdur_zero :
    (nextOf (exec .txSend State.reset)).map (fun t => (cmdStatusWord t.cmdStatus, t.irqStatus, t.tx.busy))
      = some (0x00000103#32, 0x20#6, false) := by decide

/-- 95 S-4. -/
theorem test_txSend_empty_message :
    (nextOf (exec .txSend (withTx 50#16 0#16))).map (fun t =>
      (cmdStatusWord t.cmdStatus, t.tx.total, txProgressWord t.tx, t.tx.chars, t.tx.estMs))
      = some (0x00000101#32, 0x10#16, 0x00060001#32, 0#16, 0x320#32) := by decide

/-- 95 T-2: in the cycle after the TX_STOP, TX_STATUS reads 0x3A. -/
theorem test_txStop_status :
    (nextOf (exec .txStop sending)).map (fun t => (cmdStatusWord t.cmdStatus, txStatusWord t.tx))
      = some (0x00000201#32, 0x3A#32) := by decide

/-- 95 E-1. -/
theorem test_rxStart_opens :
    (nextOf (exec .rxStart State.reset)).map (fun t =>
      (cmdStatusWord t.cmdStatus, rxStatusWord t.rx t.asm, t.rx.hold)) = some (0x301#32, 0x1#32, true) := by
  decide

/-- 95 E-2. -/
theorem test_rxStart_busy :
    (nextOf (exec .rxStart (withSession .opening))).map (fun t => cmdStatusWord t.cmdStatus)
      = some 0x302#32 := by decide

/-- 42 R175: STATE = IDLE and `cap_hold` = 0. -/
theorem test_rxStop_closes :
    (nextOf (exec .rxStop (withSession .active))).map (fun t =>
      (cmdStatusWord t.cmdStatus, rxStatusWord t.rx t.asm, t.rx.hold)) = some (0x401#32, 0x0#32, false) := by
  decide

/-- 95 M-3. -/
theorem test_rxMsgAck_status :
    (nextOf (exec .rxMsgAck State.reset)).map (fun t => (cmdStatusWord t.cmdStatus, t.asm.msgValid))
      = some (0x501#32, false) := by decide

/-- 44 R224: 0x00000101 reads back 0x00000105 and starts no send. -/
theorem test_illegalRsv_status :
    (nextOf (exec (.illegalRsv 1#24 1#8) (withTx 50#16 0#16))).map (fun t =>
      (cmdStatusWord t.cmdStatus, t.irqStatus, t.tx.busy)) = some (0x00000105#32, 0x20#6, false) := by decide

/-! ### The TX phase (95 2.4) -/

/-- 41 R151: the second bit of the frame, PCT = 2 x 100 div 16. -/
theorem test_txPhase_second_bit :
    (nextOf (txPhase true { sending with tx := { sending.tx with timer := 0#32 } })).map (fun t =>
      (t.tx.bitIndex, t.tx.level, txProgressWord t.tx, t.tx.timer)) = some (1#16, true, 0x000C0002#32, 49#32) := by
  decide

/-- 95 2.4: TX_STATUS reads 0x55 in the guard of a completed send. -/
theorem test_txPhase_guard :
    (nextOf (txPhase true { sending with
      tx := { sending.tx with timer := 0#32, bitIndex := 15#16 } })).map (fun t => txStatusWord t.tx)
      = some 0x55#32 := by decide

/-! ### Events (95 2.5, 2.6) -/

/-- 95 E-3. -/
theorem test_evtOpenOk_active :
    (nextOf (exec .evtOpenOk (withSession .opening))).map (fun t => rxStatusWord t.rx t.asm)
      = some 0x2#32 := by decide

/-- 95 E-4. -/
theorem test_evtOpenFail_report :
    (nextOf (exec .evtOpenFail (withSession .opening))).map (fun t =>
      (rxStatusWord t.rx t.asm, t.err, t.irqStatus, t.rx.hold)) = some (0x0#32, 0x1#3, 0x10#6, false) := by
  decide

/-- 95 E-7. -/
theorem test_evtFrameFail_skip :
    (nextOf (exec .evtFrameFail (withSession .active))).map (fun t => (t.rx.frameCount, t.rx.skipCount))
      = some (0#32, 1#32) := by decide

/-- 95 E-5. -/
theorem test_evtFatal_report :
    (nextOf (exec .evtFatal (withSession .active))).map (fun t => (t.err, t.irqStatus))
      = some (0x2#3, 0x10#6) := by decide

/-- 95 2.6: an 8 x 8 frame of 129 observes 1, of 128 observes 0. -/
theorem test_evtFrame_threshold :
    (nextOf (exec (.evtFrame (uniform 8#16 8#16 129#8)) (withSession .active))).map
      (fun t => rxStatusWord t.rx t.asm) = some 0x11E#32 ∧
    (nextOf (exec (.evtFrame (uniform 8#16 8#16 128#8)) (withSession .active))).map
      (fun t => rxStatusWord t.rx t.asm) = some 0x106#32 := by decide +kernel

/-- 95 B-1: the run of three 1s is emitted at the 0 and appended. -/
theorem test_evtFrame_emits :
    (nextOf (exec (.evtFrame (uniform 2#16 2#16 50#8)) (withCand true 3#8))).map (fun t =>
      (t.asm.buf, t.rx.emitCount, t.rx.emitSum, t.rx.emitCnt, t.rx.candVal, t.rx.candRun))
      = some ([true], 1#32, 200#32, 4#32, false, 1#8) := by decide

/-- 95 2.6: regions. -/
theorem test_regionCount_table :
    regionCount (uniform 640#16 480#16 0#8) 50 = 10000 ∧ regionCount (uniform 101#16 101#16 0#8) 50 = 10000 ∧
    regionCount (uniform 7#16 3#16 0#8) 2 = 12 ∧ regionCount (uniform 65535#16 65535#16 0#8) 255 = 260100 ∧
    regionFrom 7 2 = 1 ∧ regionTo 7 2 = 5 := by decide

/-! ### The codec (95 2.1, 2.2) -/

theorem test_encode_A : encodeFrame [0x41#8] = frameA := by decide +kernel

/-- 95 D-12: the pair is reported before the byte count. -/
theorem test_decode_D12 :
    decodeFrame (bitsOf [1,1,1,1,0,0,0,0,1,1,1,1,0,0,0,0,1,1,1,1,0,0,0,0]) = .error (.invalidPair 0) := by
  decide +kernel

/-- 95 D-16, D-20: a surrogate is ill-formed, U+10000 well-formed. -/
theorem test_utf8_rows :
    wellFormedUtf8 [0xED#8, 0xA0#8, 0x80#8] = false ∧
    wellFormedUtf8 [0xF0#8, 0x90#8, 0x80#8, 0x80#8] = true := by decide +kernel

/-! ### The assembler (95 2.7) -/

/-- 95 A-3 for "A": the last bit delivers. -/
theorem test_append_delivers :
    let t := append true (withBuf (frameA.take 31))
    t.asm.buf = [] ∧ t.asm.msgLen = 1#10 ∧ t.asm.msgValid = true ∧ t.irqStatus = 0x08#6 ∧
      wordAt t.mem 0 0x2000 = 0x41#32 := by decide +kernel

/-- 95 M-1: a second message without an acknowledgement. -/
theorem test_append_overrun :
    (append true { withBuf (frameA.take 31) with
      asm := { (withBuf (frameA.take 31)).asm with msgValid := true } }).err = 4#3 := by decide +kernel

/-- 40 R116: an invalid pair met by the deframer: POS 2 (95 D-9). -/
theorem test_pairInvalid00_result :
    let s := withBuf (bitsOf [1,1,1,1,0,0,0,0,1,0])
    let t := execAll [.pairInvalid00, .endMarker] s
    (nextOf t).map (fun t => rxDecResultWord t.asm) = some 0x00020005#32 := by decide +kernel

/-! ### The bus (95 2.9) -/

/-- 20 R64: the worked word. -/
theorem test_bus_txMsg_bytes :
    (nextOf (busPhase (some (writeOf 0x1000#16 0x00006948#32)) State.reset)).map (fun t =>
      (readMem t.mem 0x1000, readMem t.mem 0x1001, readMem t.mem 0x1002))
      = some (some 0x48#8, some 0x69#8, some 0x00#8) := by decide

/-- 20 R63: an unmapped offset. -/
theorem test_bus_unmapped :
    (nextOf (busPhase (some (readOf 0x03C#16)) State.reset)).map (fun t => t.busResp)
      = some (some ⟨0#32, true⟩) := by decide

/-- 95 E-11: RX_START and OPEN_OK in one cycle. -/
theorem test_cycle_start_and_open :
    (nextOf (runCycle ⟨false, some (writeOf 0x008#16 3#32), 1#3, Frame.empty⟩ State.reset)).map
      (fun t => rxStatusWord t.rx t.asm) = some 0x2#32 := by decide

/-- 70 R270: a reset ends a send at once, without TX_DONE. -/
theorem test_cycle_reset_ends_send :
    (nextOf (runCycle ⟨true, none, 0#3, Frame.empty⟩ sending)).map (fun t =>
      (t.tx.busy, t.tx.level, t.tx.acquire, t.irqStatus)) = some (false, false, false, 0#6) := by decide

/-! ### Witnesses: states and operands that meet the hypotheses of the obligations, named after them -/

theorem test_witness_DecodeOfEncode :
    Instr.wellFormed (.illegalRsv 1#24 0#8) = true ∧
    Instr.wellFormed (.evtFrame ⟨1#16, 1#16, 0#8, [((0, 0), 255#8)]⟩) = true := by decide

theorem test_witness_EveryCode : Frame.wellFormed (uniform 1#16 1#16 7#8) = true := by decide

/-- The words where the clauses meet: OPCODE 5 and 6, RSV 0 and 1. -/
theorem test_witness_IllegalWords :
    (6 ≤ ((0x00000006#32).setWidth 8 : BitVec 8).toNat) ∧
    ((0x00000105#32).extractLsb' 8 24 ≠ 0#24) ∧
    ¬ ((0x00000005#32).extractLsb' 8 24 ≠ 0#24 ∨ 6 ≤ ((0x00000005#32).setWidth 8 : BitVec 8).toNat) := by
  decide

/-- The state of 95 S-9: 501 bytes 0x41. -/
def with501 : State := { withTx 50#16 501#16 with mem := cellsAt 0x1000 (List.replicate 501 0x41#8) }

/-- 2000 continuation bytes: no characters. -/
def with2000 : State := { withTx 1000#16 2000#16 with mem := cellsAt 0x1000 (List.replicate 2000 0x80#8) }

theorem txByte_replicate (n : Nat) (b : Byte) (d j : Nat) (h : j < n) :
    txByte (cellsAt 0x1000 (List.replicate n b)) d j = b := by
  unfold txByte byteOrFree
  rw [Config.params_txMsgBase, readMem_cellsAt]
  simp [h]

theorem test_witness_TxSend_busy : sending.tx.busy = true := by decide

theorem test_witness_TxSend_bitdur :
    (withTx 49#16 0#16).tx.busy = false ∧ (withTx 49#16 0#16).tx.bitdur.toNat < 50 ∧
    1000 < (withTx 1001#16 0#16).tx.bitdur.toNat := by decide

theorem test_witness_TxSend_length :
    (withTx 50#16 2001#16).tx.busy = false ∧ 50 ≤ (withTx 50#16 2001#16).tx.bitdur.toNat ∧
    (withTx 50#16 2001#16).tx.bitdur.toNat ≤ 1000 ∧ 2000 < (withTx 50#16 2001#16).tx.len.toNat := by decide

theorem test_witness_TxSend_chars :
    with501.tx.busy = false ∧ 50 ≤ with501.tx.bitdur.toNat ∧ with501.tx.bitdur.toNat ≤ 1000 ∧
    with501.tx.len.toNat ≤ 2000 ∧ 500 < sendChars with501 with501.freshDraw := by
  refine ⟨by decide, by decide, by decide, by decide, ?_⟩
  have h : sendChars with501 with501.freshDraw = 501 := by
    unfold sendChars charCount
    have hl : with501.tx.len.toNat = (List.range 501).length := by rw [List.length_range]; rfl
    rw [show with501.tx.len.toNat = 501 from rfl]
    rw [List.countP_eq_length.mpr, List.length_range]
    intro j hj
    rw [show with501.mem = cellsAt 0x1000 (List.replicate 501 0x41#8) from rfl,
      txByte_replicate _ _ _ _ (List.mem_range.mp hj)]
    decide
  omega

theorem test_witness_TxSend_accepted :
    with2000.tx.busy = false ∧ 50 ≤ with2000.tx.bitdur.toNat ∧ with2000.tx.bitdur.toNat ≤ 1000 ∧
    with2000.tx.len.toNat ≤ 2000 ∧ sendChars with2000 with2000.freshDraw ≤ 500 := by
  refine ⟨by decide, by decide, by decide, by decide, ?_⟩
  have h : sendChars with2000 with2000.freshDraw = 0 := by
    unfold sendChars charCount
    rw [show with2000.tx.len.toNat = 2000 from rfl]
    rw [List.countP_eq_zero]
    intro j hj
    rw [show with2000.mem = cellsAt 0x1000 (List.replicate 2000 0x80#8) from rfl,
      txByte_replicate _ _ _ _ (List.mem_range.mp hj)]
    decide
  omega

/-- "é" in TX_MSG (95 2.1). -/
def withE9 : State := { withTx 50#16 2#16 with mem := cellsAt 0x1000 [0xC3#8, 0xA9#8] }

/-- Bytes that are written, so that a count and a send see them. -/
theorem test_witness_TxSend_written :
    readMem withE9.mem (0x1000 + 0) = some 0xC3#8 ∧ readMem withE9.mem (0x1000 + 1) = some 0xA9#8 := by
  decide

theorem test_witness_TxStop : sending.tx.busy = true ∧ State.reset.tx.busy = false := by decide

theorem test_witness_RxStart :
    (withSession .active).rx.session ≠ .idle ∧ State.reset.rx.session = .idle := by decide

theorem test_witness_RxStop :
    (withSession .opening).rx.session ≠ .idle ∧ State.reset.rx.session = .idle := by decide

theorem test_witness_CommandsFrame : ∃ t, exec .rxStop (withSession .active) = .next t := ⟨_, rfl⟩

/-! #### The TX phase -/

/-- A period's last cycle in the frame's last bit. -/
def atLastBit : State :=
  { sending with tx := { sending.tx with timer := 0#32, bitIndex := 15#16, sent := 16#16, pct := 100#7 } }

/-- The guard's last cycle. -/
def atGuardEnd : State :=
  { sending with tx := { sending.tx with timer := 0#32, phase := .guard, level := false } }

theorem test_witness_TxPhase_counts :
    sending.tx.timer ≠ 0#32 ∧ sending.tx.busy = true ∧ 49 ≤ sending.tx.timer.toNat ∧
    (withTx 1000#16 0#16).tx.bitdur.toNat ≤ 1000 ∧ State.reset.tx.busy = false := by decide

theorem test_witness_TxPhase_guard :
    atLastBit.tx.timer = 0#32 ∧ atLastBit.tx.phase = .bits ∧
    atLastBit.tx.bitIndex.toNat + 1 = atLastBit.tx.total.toNat := by decide

theorem test_witness_TxPhase_next :
    let s : State := { sending with tx := { sending.tx with timer := 0#32, bitIndex := 14#16 } }
    s.tx.timer = 0#32 ∧ s.tx.phase = .bits ∧ s.tx.cancel = false ∧
    s.tx.bitIndex.toNat + 1 < s.tx.total.toNat ∧ s.tx.len.toNat ≤ 2000 ∧
    s.tx.total.toNat = 16 + 16 * s.tx.len.toNat := by decide

theorem test_witness_TxPhase_ends : atGuardEnd.tx.timer = 0#32 ∧ atGuardEnd.tx.phase = .guard := by decide

theorem sending_running : TxRunning sending := by
  constructor <;> decide

/-- A script of a host read with a FRAME event beside it, a write the lock ignores, and a TX_STOP word
in an illegal access, which is no command. -/
def otherTraffic : List Input :=
  [.cycle ⟨false, some (readOf 0x028#16), 3#3, uniform 1#16 1#16 7#8⟩,
   .cycle ⟨false, some (writeOf 0x024#16 5#32), 1#3, Frame.empty⟩,
   .cycle ⟨false, some ⟨true, 0x009#16, 2#2, 2#32⟩, 0#3, Frame.empty⟩]

theorem otherTraffic_cyclesOnly : CyclesOnly otherTraffic := by
  intro x hx
  fin_cases hx <;> exact ⟨_, rfl, rfl⟩

theorem otherTraffic_neverCommands (w : Word) : NeverCommands w otherTraffic := by
  intro c hc
  unfold otherTraffic at hc
  simp only [List.mem_cons, Input.cycle.injEq, List.not_mem_nil, or_false] at hc
  rintro ⟨a, ha, hw, hr, -⟩
  rcases hc with rfl | rfl | rfl <;> cases ha
  · cases hw
  · exact absurd hr (by decide)
  · exact absurd hr (by decide)

/-- 95 S-4 with its TX_SEND as the next input, and other traffic after it. -/
def aboutToSend : State :=
  { withTx 50#16 0#16 with inputs := .cycle (cmdCycle 1#32 1#3 Frame.empty) :: otherTraffic }

theorem test_witness_SendTiming :
    aboutToSend.inputs = .cycle (cmdCycle 1#32 1#3 Frame.empty) :: otherTraffic ∧
    CyclesOnly otherTraffic ∧ aboutToSend.tx.busy = false ∧
    ∃ s₁, step aboutToSend = .next s₁ ∧ s₁.tx.busy = true ∧
      NeverCommands 2#32 (otherTraffic.take ((s₁.tx.total.toNat + 1) * bitPeriod s₁)) :=
  ⟨rfl, otherTraffic_cyclesOnly, rfl, _, rfl, rfl, fun c hc =>
    otherTraffic_neverCommands 2#32 c (List.mem_of_mem_take hc)⟩

/-- The clause about the cycles after the send, where the other traffic comes after its end. -/
theorem test_witness_SendTiming_idle (n : Nat) :
    NeverCommands 1#32 ((otherTraffic.take 3).drop n) := fun c hc =>
  otherTraffic_neverCommands 1#32 c (List.mem_of_mem_take (List.mem_of_mem_drop hc))

/-- The last cycle of the last bit that a cancel can still cut the frame after, with a TX_STOP in it. -/
def aboutToCancel : State :=
  { sending with
    tx := { sending.tx with timer := 0#32, bitIndex := 14#16, sent := 15#16, pct := 93#7 }
    inputs := .cycle (cmdCycle 2#32 0#3 Frame.empty) :: otherTraffic }

theorem test_witness_CancelledSendTiming_bits :
    aboutToCancel.inputs = .cycle (cmdCycle 2#32 0#3 Frame.empty) :: otherTraffic ∧
    CyclesOnly otherTraffic ∧ aboutToCancel.tx.busy = true ∧
    TxRunning aboutToCancel ∧ aboutToCancel.tx.phase = .bits ∧
    aboutToCancel.tx.bitIndex.toNat + 1 ≠ aboutToCancel.tx.total.toNat :=
  ⟨rfl, otherTraffic_cyclesOnly, rfl, by constructor <;> decide, rfl, by decide⟩

/-- The guard's last cycle, with a TX_STOP in it. -/
def stopInGuard : State := { atGuardEnd with
  tx := { atGuardEnd.tx with bitIndex := 15#16, sent := 16#16, pct := 100#7 }
  inputs := .cycle (cmdCycle 2#32 0#3 Frame.empty) :: otherTraffic }

theorem test_witness_CancelledSendTiming_guard :
    stopInGuard.inputs = .cycle (cmdCycle 2#32 0#3 Frame.empty) :: otherTraffic ∧
    CyclesOnly otherTraffic ∧ stopInGuard.tx.busy = true ∧
    TxRunning stopInGuard ∧ stopInGuard.tx.phase = .guard :=
  ⟨rfl, otherTraffic_cyclesOnly, rfl, by constructor <;> decide, rfl⟩

/-! #### The codec -/

theorem test_witness_WellFormedMeans : wellFormedUtf8 [0x80#8] = false := by decide

theorem test_witness_RoundTrip : wellFormedUtf8 [0xE2#8, 0x82#8, 0xAC#8] = true := by decide +kernel

theorem test_witness_PrefixAndSuffix :
    ∀ i, i < [false, true].length →
      ¬ occursAt ([false, true] ++ encodeFrame [0x41#8]) Config.params.startMarker i := by
  unfold occursAt
  decide +kernel

theorem test_witness_DecodeFindsItsMarkers :
    findBits frameA Config.params.startMarker 0 = some 0 ∧
    findBits frameA Config.params.endMarker (0 + 8) = some 24 ∧ decodeFrame frameA = .ok [0x41#8] := by
  decide +kernel

theorem test_witness_PayloadChecks_odd : (bitsOf [1]).length % 2 = 1 := by decide

theorem test_witness_PayloadChecks_pair :
    let p := bitsOf [1,0, 0,0]
    p.length % 2 = 0 ∧ 2 % 2 = 0 ∧ 2 + 1 < p.length ∧ p.getD 2 false = p.getD (2 + 1) false ∧
    ∀ j, j < 2 → j % 2 = 0 → p.getD j false ≠ p.getD (j + 1) false := by decide

/-- One raw bit; the byte 0xFF; the byte 0x41: every pair is valid. -/
theorem test_witness_PayloadChecks_valid :
    (let p := bitsOf [1,0]
     p.length % 2 = 0 ∧ p.length % 16 ≠ 0 ∧
       ∀ k, k < p.length → k % 2 = 0 → p.getD k false ≠ p.getD (k + 1) false) ∧
    (let p := bitsOf [0,1,0,1,0,1,0,1,0,1,0,1,0,1,0,1]
     p.length % 16 = 0 ∧ wellFormedUtf8 [0xFF#8] = false ∧
       ∀ k, k < p.length → k % 2 = 0 → p.getD k false ≠ p.getD (k + 1) false) ∧
    (let p := bitsOf [1,0,0,1,1,0,1,0,1,0,1,0,1,0,0,1]
     p.length % 16 = 0 ∧ wellFormedUtf8 [0x41#8] = true ∧
       ∀ k, k < p.length → k % 2 = 0 → p.getD k false ≠ p.getD (k + 1) false) := by decide +kernel

/-! #### The receive session -/

theorem test_witness_SessionEvents_in_place :
    (withSession .opening).rx.session = .opening ∧ (withSession .active).rx.session = .active ∧
    (withSession .opening).rx.session ≠ .idle ∧ (withSession .active).rx.session ≠ .idle := by decide

theorem test_witness_SessionEvents_out_of_place :
    (withSession .active).rx.session ≠ .opening ∧ (withSession .opening).rx.session ≠ .active ∧
    State.reset.rx.session = .idle := by decide

theorem test_witness_ObservedMeans : 0 < regionCount (uniform 1#16 1#16 0#8) 1 := by decide

theorem test_witness_FrameEvent_ignored : (withSession .opening).rx.session ≠ .active := by decide

theorem test_witness_FrameEvent_skip :
    (withSession .active).rx.session = .active ∧
    regionCount (uniform 0#16 480#16 0#8) (withSession .active).cfg.halfw.toNat = 0 := by decide

theorem test_witness_FrameEvent_first :
    (withSession .active).rx.session = .active ∧ (withSession .active).rx.candValid = false ∧
    regionCount (uniform 1#16 1#16 0#8) (withSession .active).cfg.halfw.toNat ≠ 0 := by decide

/-- A run at the saturation bound, and the pixel just above the threshold. -/
theorem test_witness_FrameEvent_longer :
    let s := withCand true 255#8
    let f := uniform 1#16 1#16 129#8
    s.rx.session = .active ∧ regionCount f s.cfg.halfw.toNat ≠ 0 ∧ s.rx.candValid = true ∧
    decide (s.cfg.thresh.toNat * regionCount f s.cfg.halfw.toNat < regionSum f s.cfg.halfw.toNat)
      = s.rx.candVal := by decide

/-- Runs on the two sides of STABLE = 3, and the pixel at the threshold. -/
theorem test_witness_FrameEvent_changes :
    let f := uniform 1#16 1#16 128#8
    (let s := withCand true 2#8
     s.rx.session = .active ∧ regionCount f s.cfg.halfw.toNat ≠ 0 ∧ s.rx.candValid = true ∧
     decide (s.cfg.thresh.toNat * regionCount f s.cfg.halfw.toNat < regionSum f s.cfg.halfw.toNat)
       ≠ s.rx.candVal ∧ s.rx.candRun.toNat < max s.cfg.stable.toNat 1) ∧
    (let s := withCand true 3#8
     s.rx.session = .active ∧ regionCount f s.cfg.halfw.toNat ≠ 0 ∧ s.rx.candValid = true ∧
     decide (s.cfg.thresh.toNat * regionCount f s.cfg.halfw.toNat < regionSum f s.cfg.halfw.toNat)
       ≠ s.rx.candVal ∧ max s.cfg.stable.toNat 1 ≤ s.rx.candRun.toNat) := by decide

theorem test_witness_EventsFrame :
    isEvent (.evtFrame (uniform 1#16 1#16 0#8)) = true ∧
    (∃ t, exec (.evtFrame (uniform 1#16 1#16 0#8)) (withSession .opening) = .next t) ∧
    isEvent .evtFatal = true ∧ ∃ t, exec .evtFatal (withSession .active) = .next t :=
  ⟨rfl, ⟨_, rfl⟩, rfl, ⟨_, rfl⟩⟩

theorem test_witness_DebounceLaw : State.reset.rx.candValid = false := by decide

/-- Runs of exactly STABLE observations. -/
theorem test_witness_AlternationLaw :
    let fs := List.replicate 3 (uniform 1#16 1#16 200#8) ++ List.replicate 3 (uniform 1#16 1#16 50#8)
    State.reset.rx.candValid = false ∧
    ∀ r ∈ runsOf (observationsOf State.reset.cfg fs), max State.reset.cfg.stable.toNat 1 ≤ r.2 := by
  decide

/-- 95 B-1: one emitted bit. -/
theorem test_witness_EmittedBits :
    let fs := List.replicate 3 (uniform 1#16 1#16 200#8) ++ [uniform 1#16 1#16 50#8]
    State.reset.rx.candValid = false ∧ (sampleAll fs State.reset).2 = [true] := by decide

/-! #### The assembler -/

theorem withBuf_replicate (n : Nat) : (withBuf (List.replicate n false)).asm.buf.length = n :=
  List.length_replicate

theorem test_witness_BufferBound :
    (withBuf (List.replicate 9999 false)).asm.buf.length < 10000 ∧
    (withBuf (List.replicate 10000 false)).asm.buf.length = 10000 := by
  rw [withBuf_replicate, withBuf_replicate]
  decide

theorem test_witness_AppendResult_kept :
    (pushBit (withBuf (List.replicate 14 false)).asm.buf false).length < 16 ∧
    16 ≤ (pushBit (withBuf (List.replicate 15 false)).asm.buf false).length ∧
    decodeFrame (pushBit (withBuf (List.replicate 15 false)).asm.buf false) = .error .missingStartMarker := by
  decide +kernel

theorem test_witness_AppendResult_delivered :
    16 ≤ (pushBit (withBuf (frameA.take 31)).asm.buf true).length ∧
    decodeFrame (pushBit (withBuf (frameA.take 31)).asm.buf true) = .ok [0x41#8] := by decide +kernel

/-- The largest message that fits: 16 + 16 x 624 = 10000. -/
theorem test_witness_DeliveryAtTheLastBit :
    wellFormedUtf8 (List.replicate 624 0x61#8) = true ∧
    (∀ i, ¬ occursAt State.reset.asm.buf Config.params.startMarker i) ∧
    State.reset.asm.buf.length + (16 + 16 * (List.replicate 624 0x61#8).length) ≤ 10000 := by
  refine ⟨by decide +kernel, ?_, by rw [List.length_replicate]; decide⟩
  rintro i ⟨h, -⟩
  simp [State.reset, Asm.reset] at h

theorem test_witness_BackToBack :
    wellFormedUtf8 [0x41#8] = true ∧ wellFormedUtf8 (List.replicate 624 0x61#8) = true ∧
    State.reset.asm.buf = [] ∧ [0x41#8].length ≤ 624 ∧ (List.replicate 624 0x61#8).length ≤ 624 :=
  ⟨by decide +kernel, by decide +kernel, rfl, by decide, by rw [List.length_replicate]⟩

theorem test_witness_AppendNeverMoves :
    Config.params.startMarker.length < 10000 ∧
    findBits Config.params.startMarker Config.params.startMarker 0 = some 0 := by decide +kernel

theorem test_witness_WireSymbol :
    symbolBits .pairInvalid11 = some [true, true] ∧
    symbolBits .endMarker = some [false, false, false, false, true, true, true, true] := by decide

theorem test_witness_SymbolsOfAFrame :
    wellFormedUtf8 [0x48#8] = true ∧ [0x48#8].length ≤ 624 ∧ State.reset.asm.buf = [] :=
  ⟨by decide +kernel, by decide, rfl⟩

/-! #### The bus -/

/-- Each reason an access is illegal, at the edges of the map. -/
theorem test_witness_IllegalAccesses :
    ((⟨false, 0x000#16, 3#2, 0#32⟩ : BusAccess).size ≠ 2#2) ∧
    ((readOf 0x002#16).addr.toNat % 4 ≠ 0) ∧ unmappedAddr (readOf 0x01C#16).addr.toNat ∧
    unmappedAddr (readOf 0x06C#16).addr.toNat ∧ unmappedAddr (readOf 0xFFC#16).addr.toNat ∧
    unmappedAddr (readOf 0x17D0#16).addr.toNat ∧ unmappedAddr (readOf 0x1FFC#16).addr.toNat ∧
    unmappedAddr (readOf 0x2270#16).addr.toNat ∧ unmappedAddr (readOf 0xFFFC#16).addr.toNat := by
  unfold unmappedAddr
  decide +kernel

/-- The last words of the map and of the windows are legal. -/
theorem test_witness_LegalAccesses :
    [0x000#16, 0x018#16, 0x020#16, 0x038#16, 0x040#16, 0x068#16, 0x1000#16, 0x17CC#16, 0x2000#16,
      0x226C#16].all (fun a => decide ((readOf a).size = 2#2 ∧ (readOf a).addr.toNat % 4 = 0 ∧
        ¬ (a.toNat = 0x01C ∨ a.toNat = 0x03C ∨ (0x06C ≤ a.toNat ∧ a.toNat ≤ 0x0FFF) ∨
          (0x17D0 ≤ a.toNat ∧ a.toNat ≤ 0x1FFF) ∨ 0x2270 ≤ a.toNat))) = true := by
  decide

theorem test_witness_ReadsHaveNoSideEffect :
    accessedReg (readOf 0x226C#16) = some (.rxMsg 155) ∧ (readOf 0x226C#16).write = false := by decide

/-- The last word of TX_MSG, written and read. -/
theorem test_witness_WindowWords :
    499 < 500 ∧ State.reset.tx.busy = false ∧ (0x226C#16).toNat % 4 = 0 ∧
    inRxWindow (0x226C#16).toNat ∧ inTxWindow (0x17CC#16).toNat ∧
    ∀ j, j < 4 → readMem (cellsAt 0x226C (bytesOfWord 0x80989FF0#32)) (0x226C + j)
      = some ((0x80989FF0#32).extractLsb' (8 * j) 8) := by
  unfold inRxWindow inTxWindow
  decide

theorem test_witness_TransmitLock :
    499 < 500 ∧ sending.tx.busy = true ∧ State.reset.tx.busy = false := by decide

/-! #### The whole machine -/

/-- A cycle with a read and a FRAME, one with an illegal access, and a reset cycle. -/
theorem test_witness_StepRuns_anyAccess :
    (let c : Cycle := ⟨false, some (readOf 0x040#16), 3#3, uniform 1#16 1#16 7#8⟩
     c.rst = false ∧ decode (.evt c.evt c.frame) = .ok (.evtFrame (uniform 1#16 1#16 7#8))) ∧
    (let c : Cycle := ⟨false, some (writeOf 0x01C#16 1#32), 0#3, Frame.empty⟩
     c.rst = false ∧ decode (.evt c.evt c.frame) = .ok .evtNone) ∧
    (⟨true, some (readOf 0x000#16), 3#3, Frame.empty⟩ : Cycle).rst = true := by decide

/-- A cycle with a command and an event, one with an event alone, and a wire symbol. -/
theorem test_witness_StepRuns :
    decode (.cmd 3#32) = .ok .rxStart ∧ decode (.evt 1#3 Frame.empty) = .ok .evtOpenOk ∧
    decode (.wire [true, false]) = .ok .pairRaw0 ∧
    ({ State.reset with inputs := [.cycle (cmdCycle 3#32 1#3 Frame.empty)] } : State).inputs
      = .cycle (cmdCycle 3#32 1#3 Frame.empty) :: [] := by decide

theorem test_witness_ResetCycle : (⟨true, some (readOf 0x000#16), 3#3, Frame.empty⟩ : Cycle).rst = true := by
  decide

theorem reset_inv : Inv State.reset := by
  refine ⟨⟨by decide, by intro c h; cases h⟩, ⟨fun _ => ⟨by decide, by decide, by decide, by decide⟩, ?_⟩, ?_, ?_⟩
  · intro h; cases h
  · unfold RxInv; decide
  · unfold AsmInv; decide

theorem sending_inv : Inv sending := by
  refine ⟨⟨by decide, by intro c h; cases h⟩, ⟨?_, fun _ => sending_running⟩, ?_, ?_⟩
  · intro h; cases h
  · unfold RxInv; decide
  · unfold AsmInv; decide

theorem test_witness_Progress : Inv sending ∧ sending.tx.busy = true := ⟨sending_inv, by decide⟩

theorem test_witness_StepKeepsInv : Inv sending ∧ ∃ t, step sending = .next t :=
  ⟨sending_inv, _, rfl⟩

theorem test_witness_StepNeverStops :
    let s : State := { sending with inputs := [.symbol [false, true]] }
    Inv s ∧ ScriptDecodes s := by
  obtain ⟨h1, ⟨h2, h3⟩, h4, h5⟩ := sending_inv
  refine ⟨⟨h1, ⟨h2, fun h => ?_⟩, h4, h5⟩, ?_⟩
  · obtain ⟨r1, r2, r3, r4, r5, r6, r7, r8, r9, r10⟩ := h3 h
    exact ⟨r1, r2, r3, r4, r5, r6, r7, r8, r9, r10⟩
  intro bits h
  simp at h
  exact ⟨.pairRaw1, by rw [h]; rfl⟩

/-- A read of IRQ_STATUS in a cycle without reset writes no register. -/
theorem test_witness_OnlyTheHostClears :
    let c : Cycle := ⟨false, some (readOf 0x010#16), 0#3, Frame.empty⟩
    let s : State := { sending with inputs := [.cycle c] }
    (∃ t, step s = .next t) ∧
    ∀ c' rest, s.inputs = .cycle c' :: rest → c'.rst = false ∧ ¬ writesReg c' .irqStatus := by
  refine ⟨⟨_, rfl⟩, ?_⟩
  intro c' rest h
  simp at h
  obtain ⟨rfl, -⟩ := h
  refine ⟨rfl, ?_⟩
  rintro ⟨a, ha, hw, -⟩
  cases ha
  cases hw

/-- The cycle of 95 2.4: TX_BIT is set where the write clears it. -/
theorem test_witness_SetWins :
    let s : State := { sending with tx := { sending.tx with timer := 0#32 } }
    let c : Cycle := ⟨false, some (writeOf 0x010#16 1#32), 0#3, Frame.empty⟩
    c.rst = false ∧ (nextOf (runCycle c s)).map (fun t => t.irqStatus) = some 1#6 ∧
    (nextOf (runCycle { c with bus := none } { s with irqStatus := 0#6 })).map (fun t => t.irqStatus)
      = some 1#6 := by decide

theorem test_witness_TxAndRx : isEvent (.evtFrame (uniform 1#16 1#16 0#8)) = true := by decide

theorem test_witness_RunningSend :
    Inv sending ∧ sending.tx.busy = true ∧
    (nextOf (step sending)).map (fun t => t.tx.busy) = some true := ⟨sending_inv, by decide, by decide⟩

/-- An acknowledgement in the cycle of a delivery over an unacknowledged message. -/
theorem test_witness_NopAndMessageAck :
    let s := { withCand true 3#8 with asm := { Asm.reset with buf := frameA.take 31, msgValid := true } }
    (nextOf (runCycle (cmdCycle 5#32 3#3 (uniform 1#16 1#16 0#8)) s)).map
      (fun t => (t.asm.msgCount, t.asm.msgValid, t.err)) = some (1#32, true, 0#3) := by
  decide +kernel

theorem test_witness_SimultaneousEvents_open :
    State.reset.rx.session = .idle ∧
    ∃ t, runCycle (cmdCycle 3#32 0#3 Frame.empty) State.reset = .next t := ⟨rfl, _, rfl⟩

theorem test_witness_SimultaneousEvents_stop :
    aboutToCancel.tx.busy = true ∧ aboutToCancel.tx.phase = .bits ∧ aboutToCancel.tx.timer = 0#32 ∧
    aboutToCancel.tx.bitIndex.toNat + 1 ≠ aboutToCancel.tx.total.toNat ∧
    ∃ t, runCycle (cmdCycle 2#32 0#3 Frame.empty) aboutToCancel = .next t :=
  ⟨rfl, rfl, rfl, by decide, _, rfl⟩

theorem test_witness_SimultaneousEvents_send :
    (withTx 50#16 0#16).tx.busy = false ∧
    (∃ t, runCycle (cmdCycle 1#32 0#3 Frame.empty) (withTx 50#16 0#16) = .next t) ∧
    ∃ u, exec .txSend (withTx 50#16 0#16) = .next u := ⟨rfl, ⟨_, rfl⟩, _, rfl⟩

theorem test_witness_SimultaneousEvents_read :
    (∃ t, runCycle ⟨false, some (readOf 0x010#16), 0#3, Frame.empty⟩ sending = .next t) ∧
    ∃ u, busPhase (some (readOf 0x010#16)) sending = .next u := ⟨⟨_, rfl⟩, _, rfl⟩

end Sys2Proof.Tests
end

section
/-!
The search primitive of 00 R16: `findFrom` answers the least offset at which the pattern occurs, and
`findBits` the same offset counted from the start of the whole sequence.
-/

namespace Sys2Proof.Machine

/-! ### Where a pattern occurs -/

theorem occursAt_iff_prefix {s p : Bits} {i : Nat} :
    occursAt s p i ↔ i ≤ s.length ∧ p <+: s.drop i := by
  rw [List.prefix_iff_eq_take, eq_comm (a := p), occursAt]
  constructor
  · rintro ⟨hlen, htake⟩
    exact ⟨by omega, htake⟩
  · rintro ⟨hi, htake⟩
    have hlen := congrArg List.length htake
    rw [List.length_take, List.length_drop] at hlen
    exact ⟨by omega, htake⟩

theorem occursAt_zero {s p : Bits} : occursAt s p 0 ↔ p.isPrefixOf s = true := by
  simp [occursAt_iff_prefix]

theorem occursAt_cons_succ {b : Bool} {t p : Bits} {k : Nat} :
    occursAt (b :: t) p (k + 1) ↔ occursAt t p k := by
  simp [occursAt_iff_prefix]

theorem occursAt_drop {s p : Bits} {a k : Nat} (ha : a ≤ s.length) :
    occursAt (s.drop a) p k ↔ occursAt s p (a + k) := by
  rw [occursAt_iff_prefix, occursAt_iff_prefix, List.drop_drop, List.length_drop]
  have : k ≤ s.length - a ↔ a + k ≤ s.length := by omega
  rw [this]

/-- `k` is the least position at which `p` occurs in `s`. -/
def IsFirstOccurrence (s p : Bits) (k : Nat) : Prop :=
  occursAt s p k ∧ ∀ m, m < k → ¬ occursAt s p m

theorem isFirstOccurrence_iff_eq_zero {s p : Bits} {k : Nat} (h0 : occursAt s p 0) :
    IsFirstOccurrence s p k ↔ k = 0 := by
  constructor
  · rintro ⟨_, hleast⟩
    exact Nat.eq_zero_of_not_pos fun hk => hleast 0 hk h0
  · rintro rfl
    exact ⟨h0, fun m hm => absurd hm (Nat.not_lt_zero m)⟩

theorem not_isFirstOccurrence_nil {p : Bits} {k : Nat} (h0 : ¬ occursAt [] p 0) :
    ¬ IsFirstOccurrence [] p k := by
  rintro ⟨hk, _⟩
  obtain rfl : k = 0 := Nat.le_zero.mp (occursAt_iff_prefix.mp hk).1
  exact h0 hk

theorem isFirstOccurrence_cons_succ {b : Bool} {t p : Bits} {k : Nat} :
    IsFirstOccurrence (b :: t) p (k + 1) ↔
      ¬ occursAt (b :: t) p 0 ∧ IsFirstOccurrence t p k := by
  simp only [IsFirstOccurrence, Nat.forall_lt_succ_left, occursAt_cons_succ]
  tauto

theorem isFirstOccurrence_drop {s p : Bits} {a k : Nat} (ha : a ≤ s.length) :
    IsFirstOccurrence (s.drop a) p k ↔
      occursAt s p (a + k) ∧ ∀ j, a ≤ j → j < a + k → ¬ occursAt s p j := by
  simp only [IsFirstOccurrence, occursAt_drop ha]
  refine and_congr_right fun _ => ?_
  constructor
  · intro hleast j haj hj
    obtain ⟨m, rfl⟩ := Nat.exists_eq_add_of_le haj
    exact hleast m (by omega)
  · intro hleast m hm
    exact hleast (a + m) (by omega) (by omega)

/-! ### The search -/

theorem findFrom_of_occursAt_zero {p s : Bits} {i : Nat} (h0 : occursAt s p 0) :
    findFrom p s i = some i := by
  have hp := occursAt_zero.mp h0
  cases s with
  | nil => rw [findFrom_nil, if_pos hp]
  | cons b t => rw [findFrom_cons, if_pos hp]

theorem findFrom_eq_some_iff {p s : Bits} {i j : Nat} :
    findFrom p s i = some j ↔ ∃ k, j = i + k ∧ IsFirstOccurrence s p k := by
  induction s generalizing i with
  | nil =>
    by_cases h0 : occursAt [] p 0
    · simp [findFrom_of_occursAt_zero h0, isFirstOccurrence_iff_eq_zero h0, eq_comm]
    · have hp := mt occursAt_zero.mpr h0
      simp [findFrom_nil, hp, not_isFirstOccurrence_nil h0]
  | cons b t ih =>
    by_cases h0 : occursAt (b :: t) p 0
    · simp [findFrom_of_occursAt_zero h0, isFirstOccurrence_iff_eq_zero h0, eq_comm]
    · rw [findFrom_cons, if_neg (mt occursAt_zero.mpr h0), ih]
      constructor
      · rintro ⟨k, rfl, hk⟩
        exact ⟨k + 1, by omega, isFirstOccurrence_cons_succ.mpr ⟨h0, hk⟩⟩
      · rintro ⟨_ | k, rfl, hk⟩
        · exact absurd hk.1 h0
        · exact ⟨k, by omega, (isFirstOccurrence_cons_succ.mp hk).2⟩

/-- Settles O17: the search from `start` is `findFrom` on what is left of the sequence after `start`. -/
theorem findIsTheLeastOccurrence : Obligations.FindIsTheLeastOccurrence := by
  intro s p start i
  unfold findBits
  split
  next hs =>
    rw [findFrom_eq_some_iff]
    constructor
    · rintro ⟨k, rfl, hk⟩
      exact ⟨by omega, (isFirstOccurrence_drop hs).mp hk⟩
    · rintro ⟨hi, h⟩
      obtain ⟨k, rfl⟩ := Nat.exists_eq_add_of_le hi
      exact ⟨k, rfl, (isFirstOccurrence_drop hs).mpr h⟩
  next hs =>
    constructor
    · rintro ⟨⟩
    · rintro ⟨hi, hocc, _⟩
      exact absurd (hi.trans (occursAt_iff_prefix.mp hocc).1) hs

end Sys2Proof.Machine
end

section
/-!
What the host reads (20 R62, R66): a read of a single register answers `readReg` of it and nothing else,
and the words put together from fields are given by their numbers (10 R23, R25, R33, R37, R43) or field by
field (10 R31, R36).
-/

namespace Sys2Proof.Machine

/-! ### Reads of the single registers -/

/-- The map puts every single register at its own aligned offset, outside the two windows. -/
theorem regAt_of_mem_regTable {e : Nat × Reg} (h : e ∈ regTable) :
    e.1 % 4 = 0 ∧ regAt e.1 = some e.2 := by
  revert e
  decide

theorem takeDraw_of_mem_regTable {n : Nat} {r : Reg} (h : (n, r) ∈ regTable) (s : State) :
    takeDraw r s = s := by
  cases r with
  | txMsg k => simp [regTable] at h
  | rxMsg k => simp [regTable] at h
  | _ => rfl

theorem busPhase_read {a : BusAccess} {r : Reg} (hr : accessedReg a = some r) (hw : a.write = false)
    (s : State) : busPhase (some a) s = .next (readAccess r s) := by
  simp [busPhase, hr, hw]

/-- A single register reads its word without a side effect. -/
theorem reads_register {s : State} {a : BitVec 16} {v : Word} (r : Reg) (hr : (a.toNat, r) ∈ regTable)
    (hv : readReg r s = v) : Reads s a v := by
  obtain ⟨haligned, hat⟩ := regAt_of_mem_regTable hr
  have hread := busPhase_read (a := readOf a) (accessedReg_at haligned hat) rfl s
  rwa [readAccess, takeDraw_of_mem_regTable hr, hv] at hread

/-! ### Words put together from fields, as numbers -/

theorem cfgWord_eq_ofNat (c : Cfg) :
    cfgWord c = BitVec.ofNat 32 (c.thresh.toNat + 256 * c.stable.toNat + 65536 * c.halfw.toNat) := by
  apply BitVec.eq_of_toNat_eq
  simp only [cfgWord, toNat_append_eq, BitVec.toNat_ofNat]
  omega

theorem cmdStatusWord_eq_ofNat (c : CmdStatus) :
    cmdStatusWord c = BitVec.ofNat 32 ((cmdCodeBits c.code).toNat + 256 * c.opcode.toNat) := by
  apply BitVec.eq_of_toNat_eq
  simp only [cmdStatusWord, toNat_append_eq, BitVec.toNat_ofNat]
  omega

theorem txProgressWord_eq_ofNat (t : Tx) :
    txProgressWord t = BitVec.ofNat 32 (t.sent.toNat + 65536 * t.pct.toNat) := by
  apply BitVec.eq_of_toNat_eq
  simp only [txProgressWord, toNat_append_eq, BitVec.toNat_ofNat]
  omega

theorem rxBufLenWord_eq_ofNat (a : Asm) :
    rxBufLenWord a = BitVec.ofNat 32 (a.buf.length % 2 ^ 14) := by
  rw [rxBufLenWord, ← BitVec.ofNat_toNat, BitVec.toNat_ofNat]

theorem rxDecResultWord_eq_ofNat (a : Asm) :
    rxDecResultWord a = BitVec.ofNat 32 ((decCodeBits a.decCode).toNat + 65536 * a.decPos.toNat) := by
  apply BitVec.eq_of_toNat_eq
  simp only [rxDecResultWord, toNat_append_eq, BitVec.toNat_ofNat]
  omega

/-! ### The fields of the two status words

The lemmas about `++` peel a word's fields off from below.  They apply as long as the widths stay the sums
the concatenation gives them, so `simp` is kept from adding these up. -/

theorem txStateBits_toNat (t : Tx) :
    (txStateBits t).toNat = if t.busy then (if t.cancel then 2 else 1) else 0 := by
  cases hbusy : t.busy <;> cases hcancel : t.cancel <;> simp [txStateBits, hbusy, hcancel]

/-- PHASE is 1 in the guard phase of a running send only. -/
theorem phaseField_getLsbD_zero (t : Tx) :
    (if t.busy then phaseBit t.phase else 0#1).getLsbD 0 = (t.busy && decide (t.phase = .guard)) := by
  cases t.busy <;> cases t.phase <;> rfl

theorem txStatusWord_fields (t : Tx) :
    (txStatusWord t).extractLsb' 0 2 = txStateBits t ∧
    (txStatusWord t).getLsbD 2 = (t.busy && decide (t.phase = .guard)) ∧
    (txStatusWord t).getLsbD 3 = t.level ∧
    (txStatusWord t).getLsbD 4 = t.acquire ∧
    (txStatusWord t).getLsbD 5 = t.cancel ∧
    (txStatusWord t).extractLsb' 6 2 = lastEndBits t.lastEnd ∧
    (txStatusWord t).extractLsb' 8 24 = 0#24 := by
  simp [txStatusWord, bit, phaseField_getLsbD_zero, BitVec.getLsbD_append,
    BitVec.extractLsb'_append_eq_ite, -BitVec.getLsbD_eq_getElem, -Nat.reduceAdd]

theorem rxStatusWord_fields (r : Rx) (a : Asm) :
    (rxStatusWord r a).extractLsb' 0 2 = rxSessionBits r.session ∧
    (rxStatusWord r a).getLsbD 2 = r.candValid ∧
    (rxStatusWord r a).getLsbD 3 = (r.candValid && r.candVal) ∧
    (rxStatusWord r a).getLsbD 4 = r.lastObs ∧
    (rxStatusWord r a).getLsbD 5 = r.lastEmit ∧
    (rxStatusWord r a).getLsbD 6 = a.msgValid ∧
    (rxStatusWord r a).getLsbD 7 = false ∧
    (rxStatusWord r a).extractLsb' 8 8 = (if r.candValid then r.candRun else 0#8) ∧
    (rxStatusWord r a).extractLsb' 16 16 = 0#16 := by
  simp [rxStatusWord, bit, BitVec.getLsbD_append, BitVec.extractLsb'_append_eq_ite,
    -BitVec.getLsbD_eq_getElem, -Nat.reduceAdd]

/-! ### The statements -/

/-- Settles O43: each offset names its register, whose word is the fields' number. -/
theorem registerReads : Obligations.RegisterReads := by
  intro s
  have hnum {n : Nat} (x : BitVec n) : x.setWidth 32 = BitVec.ofNat 32 x.toNat :=
    (BitVec.ofNat_toNat 32 x).symm
  exact
    ⟨reads_register .id (by decide) rfl,
      reads_register .cmd (by decide) rfl,
      reads_register .cfg (by decide) (cfgWord_eq_ofNat s.cfg),
      reads_register .cmdStatus (by decide) (cmdStatusWord_eq_ofNat s.cmdStatus),
      reads_register .irqStatus (by decide) (hnum s.irqStatus),
      reads_register .irqEnable (by decide) (hnum s.irqEnable),
      reads_register .err (by decide) (hnum s.err),
      reads_register .txBitdur (by decide) (hnum s.tx.bitdur),
      reads_register .txLen (by decide) (hnum s.tx.len),
      reads_register .txTotal (by decide) (hnum s.tx.total),
      reads_register .txProgress (by decide) (txProgressWord_eq_ofNat s.tx),
      reads_register .txChars (by decide) (hnum s.tx.chars),
      reads_register .txEstMs (by decide) rfl,
      reads_register .rxBufLen (by decide) (rxBufLenWord_eq_ofNat s.asm),
      reads_register .rxEmitCount (by decide) rfl,
      reads_register .rxFrameCount (by decide) rfl,
      reads_register .rxSkipCount (by decide) rfl,
      reads_register .rxEmitSum (by decide) rfl,
      reads_register .rxEmitCnt (by decide) rfl,
      reads_register .rxDecResult (by decide) (rxDecResultWord_eq_ofNat s.asm),
      reads_register .rxDecCount (by decide) rfl,
      reads_register .rxMsgLen (by decide) (hnum s.asm.msgLen),
      reads_register .rxMsgCount (by decide) rfl,
      rfl, rfl⟩

/-- Settles O44: the two offsets read the status words, whose fields are told one by one. -/
theorem statusWordReads : Obligations.StatusWordReads := by
  intro s
  obtain ⟨hstate, hphase, hlevel, hacquire, hcancel, hlastEnd, hreserved⟩ := txStatusWord_fields s.tx
  obtain ⟨hsession, hrx⟩ := rxStatusWord_fields s.rx s.asm
  constructor
  · refine ⟨txStatusWord s.tx, reads_register .txStatus (by decide) rfl, ?_, hphase, hlevel, hacquire,
      hcancel, ?_, hreserved⟩
    · rw [hstate, txStateBits_toNat]
    · rw [hlastEnd]
      cases s.tx.lastEnd <;> rfl
  · refine ⟨rxStatusWord s.rx s.asm, reads_register .rxStatus (by decide) rfl, ?_, hrx⟩
    rw [hsession]
    cases s.rx.session <;> rfl

end Sys2Proof.Machine
end

section
/-!
What the host's accesses do (20 R61 to R66, R75): which addresses answer an error, what a read and a write
change, and when an enabled bit shows on `irq`.
-/

namespace Sys2Proof.Machine

/-! ### The mapped addresses -/

/-- No single register stands where 20 R63 names a hole. -/
theorem not_unmappedAddr_of_mem_regTable {e : Nat × Reg} (h : e ∈ regTable) : ¬ unmappedAddr e.1 := by
  unfold unmappedAddr
  revert e
  decide

/-- Below the first large hole every word but the two small holes is a single register (20 R62, R63). -/
theorem regTable_lookup_isSome {k : Nat} (hk : k < 27) (h : ¬ unmappedAddr (4 * k)) :
    (List.lookup (4 * k) regTable).isSome = true := by
  unfold unmappedAddr at h
  revert k
  decide

theorem regAt_eq_none_of_unmapped {a : Nat} (h : unmappedAddr a) : regAt a = none := by
  obtain ⟨htx, hrx⟩ : ¬ (0x1000 ≤ a ∧ a < 0x17D0) ∧ ¬ (0x2000 ≤ a ∧ a < 0x2270) := by
    unfold unmappedAddr at h
    omega
  rw [regAt_table htx hrx, List.lookup_eq_none_iff]
  intro e he
  rw [bne_iff_ne]
  rintro rfl
  exact not_unmappedAddr_of_mem_regTable he h

theorem regAt_isSome_of_mapped {a : Nat} (h4 : a % 4 = 0) (h : ¬ unmappedAddr a) :
    (regAt a).isSome = true := by
  by_cases htx : 0x1000 ≤ a ∧ a < 0x17D0
  · rw [regAt_txMsg htx.1 htx.2, Option.isSome_some]
  by_cases hrx : 0x2000 ≤ a ∧ a < 0x2270
  · rw [regAt_rxMsg hrx.1 hrx.2, Option.isSome_some]
  obtain ⟨k, rfl⟩ := Nat.dvd_of_mod_eq_zero h4
  have hk : k < 27 := by
    unfold unmappedAddr at h
    omega
  rw [regAt_table htx hrx]
  exact regTable_lookup_isSome hk h

/-- The accesses that name no register (20 R63, R65). -/
theorem accessedReg_eq_none_iff (a : BusAccess) :
    accessedReg a = none ↔ a.size ≠ 2#2 ∨ a.addr.toNat % 4 ≠ 0 ∨ unmappedAddr a.addr.toNat := by
  by_cases hform : a.size ≠ 2#2 ∨ a.addr.toNat % 4 ≠ 0
  · simp only [accessedReg_of_illegal hform, true_iff]
    tauto
  · obtain ⟨hs, h4⟩ := not_or.mp hform
    rw [not_not] at hs h4
    rw [accessedReg_of_legal hs h4]
    constructor
    · intro hnone
      by_contra hmapped
      have hsome := regAt_isSome_of_mapped h4 (fun h => hmapped (.inr (.inr h)))
      simp [hnone] at hsome
    · rintro (h | h | h)
      · exact absurd hs h
      · exact absurd h4 h
      · exact regAt_eq_none_of_unmapped h

/-! ### Reads -/

/-- A read changes the response, and the draw counter where it reads a window. -/
theorem readAccess_eq (r : Reg) (s : State) :
    readAccess r s =
      { s with busResp := some ⟨readReg r s, false⟩, freshDraw := (takeDraw r s).freshDraw } := by
  cases r <;> rfl

/-- A word of a window reads its four bytes from its own address on (20 R62). -/
theorem regAt_window {a : Nat} (h4 : a % 4 = 0) (h : inTxWindow a ∨ inRxWindow a) :
    ∃ r, regAt a = some r ∧ ∀ s, readReg r s = wordAt s.mem s.freshDraw a := by
  rcases h with ⟨hlo, hhi⟩ | ⟨hlo, hhi⟩
  · refine ⟨_, regAt_txMsg hlo hhi, fun s => ?_⟩
    have haddr : txWordAddr ((a - 0x1000) / 4) = a := by
      rw [txWordAddr, Config.params_txMsgBase]
      omega
    rw [readReg, haddr]
  · refine ⟨_, regAt_rxMsg hlo hhi, fun s => ?_⟩
    have haddr : rxWordAddr ((a - 0x2000) / 4) = a := by
      rw [rxWordAddr, Config.params_rxMsgBase]
      omega
    rw [readReg, haddr]

/-- Four listed bytes are read as they are, the lowest first, whatever the draw (20 R64). -/
theorem wordAt_of_bytes {m : Memory} {a : Nat} {w : Word} (draw : Nat)
    (h : ∀ j, j < 4 → readMem m (a + j) = some (w.extractLsb' (8 * j) 8)) : wordAt m draw a = w := by
  have hbyte (j : Nat) (hj : j < 4) : byteOrFree m draw (a + j) = w.extractLsb' (8 * j) 8 := by
    rw [byteOrFree, h j hj, Option.getD_some]
  have h0 := hbyte 0 (by decide)
  rw [Nat.add_zero] at h0
  rw [wordAt, h0, hbyte 1 (by decide), hbyte 2 (by decide), hbyte 3 (by decide)]
  exact wordOfBytes_bytesOfWord w

/-! ### Writes -/

theorem busPhase_write {a : BusAccess} {r : Reg} (hr : accessedReg a = some r) (hw : a.write = true)
    (s : State) : busPhase (some a) s = writeReg r a.wdata (respond 0#32 false s) := by
  simp [busPhase, hr, hw]

/-- A write is told by what it does to the register at its offset. -/
theorem writes_of_regAt {s t : State} {a : BitVec 16} {w : Word} {r : Reg} (h4 : a.toNat % 4 = 0)
    (hr : regAt a.toNat = some r)
    (h : writeReg r w (respond 0#32 false s) = .next (respond 0#32 false t)) : Writes s a w t :=
  ⟨0#32, (busPhase_write (a := writeOf a w) (accessedReg_at h4 hr) rfl s).trans h⟩

theorem writes_register {s t : State} {a : BitVec 16} {w : Word} (r : Reg) (hr : (a.toNat, r) ∈ regTable)
    (h : writeReg r w (respond 0#32 false s) = .next (respond 0#32 false t)) : Writes s a w t :=
  writes_of_regAt (regAt_of_mem_regTable hr).1 (regAt_of_mem_regTable hr).2 h

/-- The registers a write leaves alone (20 R66). -/
def isReadOnly : Reg → Bool
  | .cfg | .cmd | .irqStatus | .irqEnable | .err | .txBitdur | .txLen | .txMsg _ => false
  | _ => true

theorem writeReg_readOnly {r : Reg} (h : isReadOnly r = true) (w : Word) (s : State) :
    writeReg r w s = .next s := by
  cases r with
  | cfg | cmd | irqStatus | irqEnable | err | txBitdur | txLen | txMsg => cases h
  | _ => rfl

/-- The offset is that of a single read-only register (20 R62). -/
def readOnlyAt (a : BitVec 16) : Bool :=
  regTable.any fun e => decide (e.1 = a.toNat) && isReadOnly e.2

/-- A write to a single read-only register is ignored (20 R66). -/
theorem writes_readOnlyAt {a : BitVec 16} (h : readOnlyAt a = true) (s : State) (w : Word) :
    Writes s a w s := by
  obtain ⟨⟨n, r⟩, hmem, hat⟩ := List.any_eq_true.mp h
  obtain ⟨hn, hro⟩ := Bool.and_eq_true_iff.mp hat
  obtain rfl : n = a.toNat := of_decide_eq_true hn
  exact writes_register r hmem (writeReg_readOnly hro w _)

/-- A command answers nothing on the bus: the response is the one it was given. -/
theorem exec_command_busResp {w : Word} {s t : State} (h : exec (decodeCommand w) s = .next t) :
    t.busResp = s.busResp := by
  rcases decodeCommand_cases w with ⟨-, e⟩ | ⟨-, e⟩ | ⟨-, e⟩ | ⟨-, e⟩ | ⟨-, e⟩ | ⟨-, e⟩ | ⟨op, e⟩ <;>
    rw [e] at h
  case inr.inl =>
    cases h
    unfold txSend
    split_ifs <;> rfl
  case inr.inr.inl | inr.inr.inr.inr.inl =>
    cases h
    split <;> rfl
  case inr.inr.inr.inl =>
    simp only [exec, execRxStart] at h
    split at h <;> cases h <;> rfl
  all_goals cases h; rfl

theorem unlessBusy_busResp {s t : State} (h : t.busResp = s.busResp) :
    (unlessBusy s t).busResp = s.busResp := by
  unfold unlessBusy
  split
  · rfl
  · exact h

/-- A write keeps the response the access was given. -/
theorem writeReg_busResp {r : Reg} {w : Word} {s t : State} (h : writeReg r w s = .next t) :
    t.busResp = s.busResp := by
  cases r with
  | cmd => exact exec_command_busResp h
  | txBitdur | txLen | txMsg =>
    cases h
    exact unlessBusy_busResp rfl
  | _ =>
    cases h
    rfl

theorem busPhase_illegal {a : BusAccess} (h : accessedReg a = none) (s : State) :
    busPhase (some a) s = .next (respond 0#32 true s) := by
  simp only [busPhase, h]

/-- A legal access completes without an error (20 R63, R65). -/
theorem busPhase_legal {a : BusAccess} {r : Reg} (hr : accessedReg a = some r) (s : State) :
    ∃ t v, busPhase (some a) s = .next t ∧ t.busResp = some ⟨v, false⟩ := by
  cases hw : a.write with
  | false => exact ⟨_, readReg r s, busPhase_read hr hw s, by rw [readAccess_eq]⟩
  | true =>
    obtain ⟨t, ht⟩ := writeReg_next r a.wdata (respond 0#32 false s)
    exact ⟨t, 0#32, (busPhase_write hr hw s).trans ht, writeReg_busResp ht⟩

/-! ### The words of the windows -/

theorem toNat_ofNat_wordAddr {base k : Nat} (h : base + 4 * k < 2 ^ 16) :
    (BitVec.ofNat 16 (base + 4 * k)).toNat = base + 4 * k := by
  rw [BitVec.toNat_ofNat, Nat.mod_eq_of_lt h]

theorem bytesOfWord_getElem? (w : Word) {j : Nat} (hj : j < 4) :
    (bytesOfWord w)[j]? = some (w.extractLsb' (8 * j) 8) := by
  match j, hj with
  | 0, _ | 1, _ | 2, _ | 3, _ => rfl

/-- A word written to TX_MSG while no send runs is stored at its address (20 R62, 41 R148). -/
theorem writes_txMsg_idle {s : State} {k : Nat} (hk : k < 500) (hidle : s.tx.busy = false) (w : Word) :
    Writes s (BitVec.ofNat 16 (0x1000 + 4 * k)) w
      { s with mem := writeMem s.mem (0x1000 + 4 * k) (bytesOfWord w) } := by
  have haddr := toNat_ofNat_wordAddr (base := 0x1000) (k := k) (by omega)
  refine writes_of_regAt (r := .txMsg k) (by rw [haddr]; omega) ?_ ?_
  · rw [haddr, regAt_txMsg (by omega) (by omega)]
    congr 2
    omega
  · simp only [writeReg, unlessBusy, respond_tx, hidle, Bool.false_eq_true, if_false]
    rfl

/-- A write to a word of RX_MSG is ignored (20 R66). -/
theorem writes_rxMsg {k : Nat} (hk : k < 156) (s : State) (w : Word) :
    Writes s (BitVec.ofNat 16 (0x2000 + 4 * k)) w s := by
  have haddr := toNat_ofNat_wordAddr (base := 0x2000) (k := k) (by omega)
  have hreg := regAt_rxMsg (a := 0x2000 + 4 * k) (by omega) (by omega)
  rw [← haddr] at hreg
  exact writes_of_regAt (by rw [haddr]; omega) hreg (writeReg_readOnly rfl w _)

/-! ### The interrupt output -/

theorem ne_zero_iff_exists_getLsbD {n : Nat} (x : BitVec n) :
    x ≠ 0#n ↔ ∃ b, b < n ∧ x.getLsbD b = true := by
  rw [Ne, BitVec.eq_of_getLsbD_eq_iff]
  simp only [BitVec.getLsbD_zero, not_forall, Bool.not_eq_false, exists_prop]

/-! ### The statements -/

/-- Settles O41: an access is illegal exactly when it names no register. -/
theorem illegalAccessesChangeNothing : Obligations.IllegalAccessesChangeNothing := by
  intro a s
  rw [← accessedReg_eq_none_iff]
  constructor
  · exact fun hnone => busPhase_illegal hnone s
  · intro hsome
    obtain ⟨r, hr⟩ := Option.ne_none_iff_exists'.mp hsome
    exact busPhase_legal hr s

/-- Settles O42: only the response and the model's draw counter stand in what a read leaves. -/
theorem readsHaveNoSideEffect : Obligations.ReadsHaveNoSideEffect := by
  intro a s r hr hw
  exact ⟨_, _, (busPhase_read hr hw s).trans (congrArg _ (readAccess_eq r s))⟩

/-- Settles O45: a written word is its four bytes in memory, and four bytes in memory are read as the word
they make. -/
theorem windowWordsAreLittleEndian : Obligations.WindowWordsAreLittleEndian := by
  constructor
  · intro s k w hk hidle
    refine ⟨_, writes_txMsg_idle hk hidle w, fun j hj => ?_, fun b hb => ?_⟩
    · have hlen : (bytesOfWord w).length = 4 := rfl
      rw [readMem_writeMem, if_pos (by omega), Nat.add_sub_cancel_left, bytesOfWord_getElem? w hj]
    · exact readMem_writeMem_of_outside hb
  · intro s a w h4 hwin hbytes
    obtain ⟨r, hr, hread⟩ := regAt_window h4 hwin
    have hword : readReg r s = w := (hread s).trans (wordAt_of_bytes _ hbytes)
    refine ⟨(takeDraw r s).freshDraw, ?_⟩
    rw [busPhase_read (a := readOf a) (accessedReg_at h4 hr) rfl, readAccess_eq, hword]

/-- Settles O47: CFG and IRQ_ENABLE store their fields, and every other offset named is read-only. -/
theorem registerWrites : Obligations.RegisterWrites := by
  intro s w
  exact ⟨writes_register .cfg (by decide) rfl, writes_register .irqEnable (by decide) rfl,
    fun a ha => writes_readOnlyAt (List.all_eq_true.mp (by decide) a ha) s w,
    fun k hk => writes_rxMsg hk s w⟩

/-- Settles O57: the conjunction of the two registers is not 0 exactly when some bit of it is 1. -/
theorem irqOutputMeansAnEnabledBitIsPending : Obligations.IrqOutputMeansAnEnabledBitIsPending := by
  intro s
  rw [irqOutput, decide_eq_true_iff, ne_zero_iff_exists_getLsbD]
  simp only [BitVec.getLsbD_and, Bool.and_eq_true]

end Sys2Proof.Machine
end

section
/-!
The encodings (30 R80, R83, R84, R86 to R90): encoding after decoding gives the word or the code back, so
what an instruction is can be read off its encoding.
-/

namespace Sys2Proof.Machine

/-! ### Words put together from an opcode row and its free bits -/

/-- A value of the row that starts at `base` is `base` with its own low `k` bits. -/
theorem or_low_bits {m n k base : Nat} (hmn : m ≤ n) (x : BitVec m) (haligned : base % 2 ^ k = 0)
    (hlo : base ≤ x.toNat) (hhi : x.toNat < base + 2 ^ k) :
    BitVec.ofNat n base ||| (x.setWidth k).setWidth n = x.setWidth n := by
  obtain ⟨a, rfl⟩ := Nat.dvd_of_mod_eq_zero haligned
  obtain ⟨low, hx⟩ := Nat.exists_eq_add_of_le hlo
  have hlow : low < 2 ^ k := by omega
  have hpow : 2 ^ m ≤ 2 ^ n := Nat.pow_le_pow_right (by decide) hmn
  have hlt := x.isLt
  apply BitVec.eq_of_toNat_eq
  rw [BitVec.toNat_or, BitVec.toNat_ofNat, BitVec.toNat_setWidth, BitVec.toNat_setWidth,
    BitVec.toNat_setWidth_of_le hmn, hx, Nat.mul_add_mod, Nat.mod_eq_of_lt hlow,
    Nat.mod_eq_of_lt (by omega : 2 ^ k * a < 2 ^ n), Nat.mod_eq_of_lt (by omega : low < 2 ^ n),
    Nat.two_pow_add_eq_or_of_lt hlow]

/-- A command word is its RSV field above its OPCODE (30 R86). -/
theorem rsv_append_opcode (w : Word) : w.extractLsb' 8 24 ++ w.setWidth 8 = w := by
  apply BitVec.eq_of_toNat_eq
  rw [toNat_append_eq, BitVec.extractLsb'_toNat, BitVec.toNat_setWidth, Nat.shiftRight_eq_div_pow]
  omega

/-- The legal words are the numbers below 6 (30 R88). -/
theorem illegal_iff_six_le (w : Word) :
    (w.extractLsb' 8 24 ≠ 0#24 ∨ 6 ≤ (w.setWidth 8).toNat) ↔ 6 ≤ w.toNat := by
  rw [Ne, ← BitVec.toNat_inj, BitVec.extractLsb'_toNat, BitVec.toNat_setWidth,
    Nat.shiftRight_eq_div_pow, BitVec.toNat_ofNat]
  omega

/-! ### Encoding after decoding -/

/-- One comparison of the decoder: below the bound an opcode belongs to the row, else to the rest. -/
theorem encode_row_or_rest {op bound : BitVec 8} {k base : Nat} {row : BitVec k → Instr} {rest : Instr}
    (hrow : ∀ low, encode (row low) = .cmd (BitVec.ofNat 32 base ||| low.setWidth 32))
    (haligned : base % 2 ^ k = 0) (hbound : bound.toNat = base + 2 ^ k) (hlo : base ≤ op.toNat)
    (hrest : bound.toNat ≤ op.toNat → encode rest = .cmd (op.setWidth 32)) :
    encode (if op < bound then row (op.setWidth k) else rest) = .cmd (op.setWidth 32) := by
  split
  next h => rw [hrow, or_low_bits (by decide) op haligned hlo (by rwa [← hbound])]
  next h => exact hrest (not_lt.mp h)

theorem encode_decodeCommand_of_command {w : Word} (h : w.toNat < 6) :
    encode (decodeCommand w) = .cmd w := by
  have hall : ∀ n, n < 6 → encode (decodeCommand (BitVec.ofNat 32 n)) = .cmd (BitVec.ofNat 32 n) := by
    decide
  simpa using hall w.toNat h

theorem encode_decodeCommand_of_reserved {w : Word} (hrsv : w.extractLsb' 8 24 = 0#24)
    (h6 : 6 ≤ (w.setWidth 8).toNat) : encode (decodeCommand w) = .cmd w := by
  have hw := eq_of_rsv_zero hrsv rfl
  unfold decodeCommand
  dsimp only
  rw [if_neg (not_not.mpr hrsv)]
  clear hrsv
  generalize w.setWidth 8 = op at hw h6
  subst hw
  iterate 6 rw [if_neg (by rintro rfl; exact absurd h6 (by decide))]
  refine encode_row_or_rest (fun _ => rfl) (by decide) rfl h6 fun h08 => ?_
  refine encode_row_or_rest (fun _ => rfl) (by decide) rfl h08 fun h10 => ?_
  refine encode_row_or_rest (fun _ => rfl) (by decide) rfl h10 fun h20 => ?_
  refine encode_row_or_rest (fun _ => rfl) (by decide) rfl h20 fun h40 => ?_
  refine encode_row_or_rest (fun _ => rfl) (by decide) rfl h40 fun h80 => ?_
  exact congrArg Code.cmd (or_low_bits (by decide) op (by decide) h80 op.isLt)

theorem decodeCommand_of_rsv {w : Word} (hrsv : w.extractLsb' 8 24 ≠ 0#24) :
    decodeCommand w = .illegalRsv (w.extractLsb' 8 24) (w.setWidth 8) := by
  unfold decodeCommand
  exact if_pos hrsv

/-- No bit of a command word is lost in its instruction (30 R86 to R88). -/
theorem encode_decodeCommand (w : Word) : encode (decodeCommand w) = .cmd w := by
  by_cases hrsv : w.extractLsb' 8 24 = 0#24
  · by_cases hlegal : w.toNat < 6
    · exact encode_decodeCommand_of_command hlegal
    · have hillegal := (illegal_iff_six_le w).mpr (not_lt.mp hlegal)
      exact encode_decodeCommand_of_reserved hrsv (hillegal.resolve_left (not_not.mpr hrsv))
  · rw [decodeCommand_of_rsv hrsv, encode, rsv_append_opcode]

/-- The one row with a condition, ILLEGAL_RSV, is answered only where RSV is not 0 (30 R88). -/
theorem wellFormed_decodeCommand (w : Word) : (decodeCommand w).wellFormed = true := by
  unfold decodeCommand
  dsimp only
  simp only [apply_ite (fun i : Instr => i.wellFormed = true)]
  simp [Instr.wellFormed]

/-! ### The words by their instruction -/

theorem toNat_le_toNat_or {n : Nat} (x y : BitVec n) : x.toNat ≤ (x ||| y).toNat := by
  rw [BitVec.toNat_or]
  exact Nat.left_le_or

/-- A well-formed instruction of a command word is a command or an illegal word, as the word's number says
(30 R87, R88), and an illegal word performs the ILLEGAL result with the word's low byte (44 R224). -/
theorem command_or_illegal {i : Instr} {w : Word} (hwf : i.wellFormed = true) (h : encode i = .cmd w) :
    (w.toNat < 6 ∧ isCommand i = true) ∨
    (6 ≤ w.toNat ∧ isIllegalWord i = true ∧
      ∀ s, exec i s = .next (illegalWord (w.setWidth 8) s)) := by
  cases i with
  | nop | txSend | txStop | rxStart | rxStop | rxMsgAck =>
    cases h
    exact .inl ⟨by decide, rfl⟩
  | reserved0607 low | reserved080F low | reserved101F low | reserved203F low | reserved407F low
  | reserved80FF low =>
    cases h
    refine .inr ⟨le_trans (by decide) (toNat_le_toNat_or _ _), rfl, fun s => ?_⟩
    rw [BitVec.setWidth_or, BitVec.setWidth_setWidth_of_le low (by decide)]
    rfl
  | illegalRsv rsv op =>
    cases h
    have hrsv : rsv.toNat ≠ 0 := fun h0 =>
      of_decide_eq_true hwf (BitVec.eq_of_toNat_eq h0)
    refine .inr ⟨?_, rfl, fun s => ?_⟩
    · rw [toNat_append_eq]
      omega
    · rw [BitVec.setWidth_append_eq_right]
      rfl
  | _ => cases h

/-! ### Event codes -/

theorem eventCode_cases (code : BitVec 3) :
    code = 0#3 ∨ code = 1#3 ∨ code = 2#3 ∨ code = 3#3 ∨ code = 4#3 ∨ code = 5#3 ∨ code = 6#3 ∨
      code = 7#3 := by
  revert code
  decide

/-- No bit of an event code is lost; the frame is kept beside code 3 only (30 R90). -/
theorem encode_decodeEvent (code : BitVec 3) (f : Frame) :
    encode (decodeEvent code f) = .evt code (if code = 3#3 then f else Frame.empty) := by
  rcases eventCode_cases code with rfl | rfl | rfl | rfl | rfl | rfl | rfl | rfl <;> rfl

theorem wellFormed_decodeEvent {f : Frame} (hf : f.wellFormed = true) (code : BitVec 3) :
    (decodeEvent code f).wellFormed = true := by
  rcases eventCode_cases code with rfl | rfl | rfl | rfl | rfl | rfl | rfl | rfl <;>
    first | exact hf | rfl

/-! ### Wire symbols -/

theorem encode_wire_iff (i : Instr) (bits : Bits) : encode i = .wire bits ↔ symbolBits i = some bits := by
  cases i <;> simp [encode, symbolBits]

theorem wellFormed_of_wire {i : Instr} {bits : Bits} (h : encode i = .wire bits) : i.wellFormed = true := by
  cases i with
  | evtFrame | illegalRsv => cases h
  | _ => rfl

theorem encode_of_decodeSymbol {bits : Bits} {i : Instr} (h : decodeSymbol bits = .ok i) :
    encode i = .wire bits := by
  unfold decodeSymbol at h
  split at h
  next hbits => cases h; rw [hbits]; rfl
  next =>
    split at h
    next hbits => cases h; rw [hbits]; rfl
    next => split at h <;> cases h <;> rfl

/-! ### The statements -/

/-- Settles O1: one lemma for each row of the table. -/
theorem decodeOfEncodeIsTheInstruction : Obligations.DecodeOfEncodeIsTheInstruction := by
  intro i
  cases i with
  | nop => exact Laws.RoundTrip.nop
  | txSend => exact Laws.RoundTrip.txSend
  | txStop => exact Laws.RoundTrip.txStop
  | rxStart => exact Laws.RoundTrip.rxStart
  | rxStop => exact Laws.RoundTrip.rxStop
  | rxMsgAck => exact Laws.RoundTrip.rxMsgAck
  | reserved0607 low => exact Laws.RoundTrip.reserved0607 low
  | reserved080F low => exact Laws.RoundTrip.reserved080F low
  | reserved101F low => exact Laws.RoundTrip.reserved101F low
  | reserved203F low => exact Laws.RoundTrip.reserved203F low
  | reserved407F low => exact Laws.RoundTrip.reserved407F low
  | reserved80FF low => exact Laws.RoundTrip.reserved80FF low
  | illegalRsv rsv op => exact Laws.RoundTrip.illegalRsv rsv op
  | evtNone => exact Laws.RoundTrip.evtNone
  | evtOpenOk => exact Laws.RoundTrip.evtOpenOk
  | evtOpenFail => exact Laws.RoundTrip.evtOpenFail
  | evtFrame f => exact Laws.RoundTrip.evtFrame f
  | evtFrameFail => exact Laws.RoundTrip.evtFrameFail
  | evtFatal => exact Laws.RoundTrip.evtFatal
  | evtReserved low => exact Laws.RoundTrip.evtReserved low
  | startMarker => exact Laws.RoundTrip.startMarker
  | endMarker => exact Laws.RoundTrip.endMarker
  | pairRaw0 => exact Laws.RoundTrip.pairRaw0
  | pairRaw1 => exact Laws.RoundTrip.pairRaw1
  | pairInvalid00 => exact Laws.RoundTrip.pairInvalid00
  | pairInvalid11 => exact Laws.RoundTrip.pairInvalid11

/-- Settles O2: the decoded instruction is the one, and an encoding tells whether it is FRAME. -/
theorem everyCodeIsOneInstruction : Obligations.EveryCodeIsOneInstruction := by
  refine ⟨fun w => ⟨_, rfl, wellFormed_decodeCommand w, encode_decodeCommand w⟩, fun code f => ?_⟩
  have hencode := encode_decodeEvent code f
  refine ⟨decodeEvent code f, _, rfl, fun hf => wellFormed_decodeEvent hf code, hencode, ⟨?_, ?_⟩, ?_⟩
  · rintro ⟨f', hf'⟩
    rw [hf'] at hencode
    exact (Code.evt.inj hencode).1.symm
  · rintro rfl
    exact ⟨f, rfl⟩
  · rintro rfl
    rfl

/-- Settles O3: decoding a symbol's bits and encoding the symbol undo each other. -/
theorem wireSymbolsAreExactlySix : Obligations.WireSymbolsAreExactlySix := by
  intro bits i
  refine ⟨⟨encode_of_decodeSymbol, fun h => ?_⟩, encode_wire_iff i bits⟩
  rw [← h]
  exact decodeOfEncodeIsTheInstruction i (wellFormed_of_wire h)

/-- Settles O4: a word is illegal exactly when its number is 6 or more. -/
theorem illegalWordsPerformOnlyTheIllegalResult :
    Obligations.IllegalWordsPerformOnlyTheIllegalResult := by
  refine ⟨rfl, fun w s => ?_⟩
  rw [illegal_iff_six_le]
  obtain ⟨hlt, hcommand⟩ | ⟨hle, hillegal, hexec⟩ :=
    command_or_illegal (wellFormed_decodeCommand w) (encode_decodeCommand w)
  · exact ⟨fun hle => absurd hlt (not_lt.mpr hle), fun _ => ⟨_, rfl, hcommand⟩⟩
  · exact ⟨fun _ => ⟨_, rfl, hillegal, hexec s⟩, fun hlt => absurd hle hlt⟩

/-- Settles O5: each word is the encoding of its instruction. -/
theorem wordsOfTheTablesDecode : Obligations.WordsOfTheTablesDecode := by
  have hdecode := decodeOfEncodeIsTheInstruction
  exact ⟨hdecode .nop rfl, hdecode .txSend rfl, hdecode .txStop rfl, hdecode .rxStart rfl,
    hdecode .rxStop rfl, hdecode .rxMsgAck rfl, hdecode (.illegalRsv 1#24 1#8) rfl,
    hdecode .evtNone rfl, hdecode .evtFatal rfl, hdecode .startMarker rfl, hdecode .pairRaw0 rfl,
    hdecode .pairRaw1 rfl⟩

end Sys2Proof.Machine
end

section
/-!
The frame of a message (40 R100, R101, R104): the start marker, the pairs of the message's raw bits and the
end marker, as a list and line bit by line bit, and as the wire symbols of 30 R80 and R83.
-/

namespace Sys2Proof.Machine

/-- The pair of a raw bit, its complement first (30 R83). -/
def pairBits (raw : Bool) : Bits := [!raw, raw]

/-- The raw bits of a message, each byte's most significant first (30 R81). -/
def messageBits (m : List Byte) : Bits := m.flatMap fun b => bitsMsbFirst 8 b.toNat

/-- The line bits between the markers of a message's frame. -/
def payloadBits (m : List Byte) : Bits := (messageBits m).flatMap pairBits

theorem payloadBits_cons (b : Byte) (m : List Byte) :
    payloadBits (b :: m) = (bitsMsbFirst 8 b.toNat).flatMap pairBits ++ payloadBits m := by
  simp only [payloadBits, messageBits, List.flatMap_cons, List.flatMap_append]

/-! ### Line bits by their position -/

theorem frameBit_start (m : Nat → Byte) (len : Nat) {i : Nat} (hi : i < 8) :
    frameBit m len i = Config.params.startMarker.getD i false := by
  rw [frameBit, if_pos hi]

theorem frameBit_payload (m : Nat → Byte) {len i : Nat} (hi : i < 16 * len) :
    frameBit m len (8 + i) = (rawBit m (i / 2) ^^ decide (i % 2 = 0)) := by
  rw [frameBit, Config.params_markerLen, if_neg (by omega), if_pos (by omega), Nat.add_sub_cancel_left]

theorem frameBit_end (m : Nat → Byte) (len i : Nat) :
    frameBit m len (8 + 16 * len + i) = Config.params.endMarker.getD i false := by
  rw [frameBit, Config.params_markerLen, if_neg (by omega), if_neg (by omega), Nat.sub_sub,
    Nat.add_sub_cancel_left]

theorem encodeFrame_length (m : List Byte) : (encodeFrame m).length = 16 + 16 * m.length := by
  simp [encodeFrame]

theorem encodeFrame_getElem? (m : List Byte) {i : Nat} (hi : i < 16 + 16 * m.length) :
    (encodeFrame m)[i]? = some (frameBit (fun j => m.getD j 0#8) m.length i) := by
  simp [encodeFrame, hi]

/-- The pair of raw bit r stands at line bits 8 + 2r and 9 + 2r (40 R104). -/
theorem encodeFrame_pair (m : List Byte) {r : Nat} (hr : r < 8 * m.length) :
    (encodeFrame m)[8 + 2 * r]? = some (!(m.getD (r / 8) 0#8).getLsbD (7 - r % 8)) ∧
      (encodeFrame m)[8 + 2 * r + 1]? = some ((m.getD (r / 8) 0#8).getLsbD (7 - r % 8)) := by
  have heven : 2 * r / 2 = r ∧ 2 * r % 2 = 0 := by omega
  have hodd : (2 * r + 1) / 2 = r ∧ (2 * r + 1) % 2 = 1 := by omega
  rw [Nat.add_assoc, encodeFrame_getElem? m (by omega), encodeFrame_getElem? m (by omega),
    frameBit_payload _ (by omega), frameBit_payload _ (by omega), heven.1, heven.2, hodd.1, hodd.2]
  simp [rawBit]

/-! ### The frame as a list -/

/-- The payload's line bits are the pairs of the raw bits, byte by byte. -/
theorem payloadBits_eq_map (m : List Byte) :
    (List.range (16 * m.length)).map
      (fun i => rawBit (fun j => m.getD j 0#8) (i / 2) ^^ decide (i % 2 = 0)) = payloadBits m := by
  induction m with
  | nil => rfl
  | cons b m ih =>
    have hlater (i : Nat) : rawBit (fun j => (b :: m).getD j 0#8) ((16 + i) / 2) =
        rawBit (fun j => m.getD j 0#8) (i / 2) := by
      rw [rawBit, rawBit, show (16 + i) / 2 / 8 = i / 2 / 8 + 1 by omega,
        show (16 + i) / 2 % 8 = i / 2 % 8 by omega, List.getD_cons_succ]
    rw [List.length_cons, Nat.mul_succ, Nat.add_comm, List.range_add, List.map_append, List.map_map,
      payloadBits_cons, ← ih]
    congr 1
    · simp [List.range_succ, rawBit, bitsMsbFirst, pairBits, BitVec.getLsbD]
    · refine List.map_congr_left fun i _ => ?_
      rw [Function.comp_apply, hlater, show (16 + i) % 2 = i % 2 by omega]

theorem payloadBits_length (m : List Byte) : (payloadBits m).length = 16 * m.length := by
  rw [← payloadBits_eq_map, List.length_map, List.length_range]

theorem encodeFrame_eq (m : List Byte) :
    encodeFrame m = Config.params.startMarker ++ payloadBits m ++ Config.params.endMarker := by
  have hlen : frameLength m.length = 8 + 16 * m.length + 8 := by rw [frameLength_eq]; omega
  rw [encodeFrame, hlen, List.range_add, List.range_add, List.map_append, List.map_append, List.map_map,
    List.map_map, ← payloadBits_eq_map]
  congr 2
  · refine List.map_congr_left fun i hi => ?_
    exact frameBit_payload _ (List.mem_range.mp hi)
  · exact List.map_congr_left fun i _ => frameBit_end _ m.length i

/-! ### The frame as symbols -/

theorem bitsOfSymbols_append (is js : List Instr) :
    bitsOfSymbols (is ++ js) = bitsOfSymbols is ++ bitsOfSymbols js := List.flatMap_append

theorem bitsOfSymbols_byteSymbols (b : Byte) :
    bitsOfSymbols (byteSymbols b) = (bitsMsbFirst 8 b.toNat).flatMap pairBits := by
  have hpair (raw : Bool) :
      (symbolBits (if raw then Instr.pairRaw1 else Instr.pairRaw0)).getD [] = pairBits raw := by
    cases raw <;> rfl
  simp only [bitsOfSymbols, byteSymbols, bitsMsbFirst, List.flatMap_map, hpair, BitVec.getLsbD]

theorem bitsOfSymbols_payloadSymbols (m : List Byte) :
    bitsOfSymbols (payloadSymbols m) = payloadBits m := by
  induction m with
  | nil => rfl
  | cons b m ih =>
    rw [payloadBits_cons, ← ih, ← bitsOfSymbols_byteSymbols, ← bitsOfSymbols_append]
    rfl

theorem encodeFrame_eq_bitsOfSymbols (m : List Byte) :
    encodeFrame m = bitsOfSymbols (frameSymbols m) := by
  rw [encodeFrame_eq, ← bitsOfSymbols_payloadSymbols, frameSymbols, ← List.singleton_append,
    bitsOfSymbols_append, bitsOfSymbols_append, ← List.append_assoc]
  rfl

/-- Settles O18: the markers from the frame as a list, the pairs from its line bits. -/
theorem frameIsItsSymbols : Obligations.FrameIsItsSymbols := by
  intro m
  refine ⟨encodeFrame_length m, ?_, fun r hr => encodeFrame_pair m hr, ?_,
    encodeFrame_eq_bitsOfSymbols m⟩
  · rw [encodeFrame_eq]
    rfl
  · rw [encodeFrame_eq]
    exact List.drop_left' (by rw [List.length_append, payloadBits_length]; rfl)

end Sys2Proof.Machine
end

section
/-!
Decoding a frame (40 R110 to R122): the payload of a message's frame gives the message back, the first end
marker after the start marker is the frame's own, and so a frame cut short does not decode.
-/

namespace Sys2Proof.Machine

/-! ### The payload -/

/-- The bits of a number, most significant first, put together again. -/
theorem foldl_bitsMsbFirst (n w : Nat) :
    (bitsMsbFirst n w).foldl (fun a b => 2 * a + b.toNat) 0 = w % 2 ^ n := by
  induction n generalizing w with
  | zero => simp [bitsMsbFirst, Nat.mod_one]
  | succ n ih =>
    have hsnoc : bitsMsbFirst (n + 1) w = bitsMsbFirst n (w / 2) ++ [w.testBit 0] := by
      rw [bitsMsbFirst, bitsMsbFirst, List.range_succ, List.map_append]
      congr 1
      · refine List.map_congr_left fun k hk => ?_
        have hk := List.mem_range.mp hk
        rw [Nat.testBit_div_two, show n + 1 - 1 - k = n - 1 - k + 1 by omega]
      · simp
    rw [hsnoc, List.foldl_append, ih, List.foldl_cons, List.foldl_nil, Nat.toNat_testBit, pow_zero,
      Nat.div_one, Nat.pow_succ', Nat.mod_mul, Nat.add_comm]

theorem byteOfBits_bitsMsbFirst (b : Byte) : byteOfBits (bitsMsbFirst 8 b.toNat) = b := by
  rw [byteOfBits, foldl_bitsMsbFirst, Nat.mod_eq_of_lt b.isLt, BitVec.ofNat_toNat, BitVec.setWidth_eq]

theorem bytesOfRaw_messageBits (m : List Byte) : bytesOfRaw (messageBits m) = m := by
  induction m with
  | nil => rfl
  | cons b m ih =>
    have hbyte : bytesOfRaw (messageBits (b :: m)) =
      byteOfBits (bitsMsbFirst 8 b.toNat) :: bytesOfRaw (messageBits m) := rfl
    rw [hbyte, byteOfBits_bitsMsbFirst, ih]

theorem messageBits_length (m : List Byte) : (messageBits m).length = 8 * m.length := by
  simp [messageBits, bitsMsbFirst, List.length_flatMap, Nat.mul_comm]

theorem rawBitsOf_pairs (k : Nat) (raw : Bits) : rawBitsOf k (raw.flatMap pairBits) = .ok raw := by
  induction raw generalizing k with
  | nil => rfl
  | cons b raw ih =>
    have hpair : (b :: raw).flatMap pairBits = (!b) :: b :: raw.flatMap pairBits := rfl
    rw [hpair, rawBitsOf, if_neg (Bool.not_ne_self b), ih]

/-- The payload of any bytes passes every check but the one of their UTF-8 (40 R120). -/
theorem decodePayload_payloadBits (m : List Byte) :
    decodePayload (payloadBits m) = if wellFormedUtf8 m then .ok m else .error .invalidUtf8 := by
  have heven : ¬ (payloadBits m).length % 2 = 1 := by rw [payloadBits_length]; omega
  have haligned : ¬ (messageBits m).length % 8 ≠ 0 := by rw [messageBits_length]; omega
  rw [decodePayload, if_neg heven, payloadBits, rawBitsOf_pairs]
  dsimp only
  rw [if_neg haligned, bytesOfRaw_messageBits]

/-! ### The markers -/

theorem occursAt_append {s p : Bits} {i : Nat} (h : occursAt s p i) (t : Bits) :
    occursAt (s ++ t) p i := by
  rw [occursAt_iff_prefix] at h ⊢
  obtain ⟨hi, hp⟩ := h
  refine ⟨by rw [List.length_append]; omega, ?_⟩
  rw [List.drop_append_of_le_length hi]
  exact hp.trans (List.prefix_append _ _)

theorem getElem?_of_occursAt {s p : Bits} {i j : Nat} (h : occursAt s p i) (hj : j < p.length) :
    s[i + j]? = p[j]? := by
  rw [← h.2, List.getElem?_take_of_lt hj, List.getElem?_drop]

theorem occursAt_length_of_append (s p t : Bits) : occursAt (s ++ p ++ t) p s.length := by
  rw [occursAt_iff_prefix]
  simp

/-- No end marker begins inside a payload: two equal bits of the marker would be a pair, or its fifth bit
would be the fourth of the frame's own end marker (40 R105). -/
theorem not_occursAt_endMarker_of_payload (m : List Byte) {d : Nat} (hd : d < 16 * m.length) :
    ¬ occursAt (encodeFrame m) Config.params.endMarker (8 + d) := by
  intro h
  have hbit {j : Nat} (hj : j < 8) :
      (encodeFrame m)[8 + d + j]? = Config.params.endMarker[j]? := getElem?_of_occursAt h hj
  have hpair {r : Nat} (hr : r < 8 * m.length) :
      (encodeFrame m)[8 + 2 * r]? ≠ (encodeFrame m)[8 + 2 * r + 1]? := by
    obtain ⟨hfirst, hsecond⟩ := encodeFrame_pair m hr
    rw [hfirst, hsecond]
    simp
  obtain ⟨r, rfl | rfl⟩ := Nat.even_or_odd' d
  · exact hpair (r := r) (by omega) ((hbit (j := 0) (by decide)).trans (hbit (j := 1) (by decide)).symm)
  · by_cases hlast : r + 1 < 8 * m.length
    · exact hpair hlast ((hbit (j := 1) (by decide)).trans (hbit (j := 2) (by decide)).symm)
    · have h4 := hbit (j := 4) (by decide)
      have hat : 8 + (2 * r + 1) + 4 = 8 + 16 * m.length + 3 := by omega
      rw [hat, encodeFrame_getElem? m (by omega), frameBit_end] at h4
      exact absurd h4 (by decide)

theorem decodeFrame_of_markers {bits : Bits} {s e : Nat}
    (hs : findBits bits Config.params.startMarker 0 = some s)
    (he : findBits bits Config.params.endMarker (s + 8) = some e) :
    decodeFrame bits = decodePayload ((bits.take e).drop (s + 8)) := by
  unfold decodeFrame
  rw [hs]
  simp only [he]

/-- The frame of any bytes decodes as its payload (40 R111 to R113). -/
theorem decodeFrame_encodeFrame (m : List Byte) :
    decodeFrame (encodeFrame m) = decodePayload (payloadBits m) := by
  have hstart : findBits (encodeFrame m) Config.params.startMarker 0 = some 0 := by
    refine (findIsTheLeastOccurrence _ _ _ _).mpr
      ⟨le_rfl, ?_, fun j _ hj => absurd hj (Nat.not_lt_zero j)⟩
    rw [encodeFrame_eq, List.append_assoc]
    exact occursAt_length_of_append [] _ _
  have hend : findBits (encodeFrame m) Config.params.endMarker 8 = some (8 + 16 * m.length) := by
    refine (findIsTheLeastOccurrence _ _ _ _).mpr ⟨Nat.le_add_right _ _, ?_, fun j hj hlt => ?_⟩
    · have h := occursAt_length_of_append (Config.params.startMarker ++ payloadBits m)
        Config.params.endMarker []
      rwa [List.append_nil, ← encodeFrame_eq, List.length_append, payloadBits_length] at h
    · obtain ⟨d, rfl⟩ := Nat.exists_eq_add_of_le hj
      exact not_occursAt_endMarker_of_payload m (by omega)
  rw [decodeFrame_of_markers hstart hend, encodeFrame_eq,
    List.take_left' (by rw [List.length_append, payloadBits_length]; rfl)]
  rfl

/-- A decode that succeeds found an end marker behind a start marker. -/
theorem exists_endMarker_of_decodeFrame_ok {bits : Bits} {bs : List Byte} (h : decodeFrame bits = .ok bs) :
    ∃ e, 8 ≤ e ∧ occursAt bits Config.params.endMarker e := by
  unfold decodeFrame at h
  split at h
  · cases h
  split at h
  · cases h
  next s _ _ e he =>
    obtain ⟨hle, hocc, -⟩ := (findIsTheLeastOccurrence _ _ _ _).mp he
    exact ⟨e, by rw [Config.params_endSearchFrom] at hle; omega, hocc⟩

/-- A frame cut short does not decode. -/
theorem decodeFrame_ne_ok_of_prefix {m : List Byte} {p : Bits} (hp : p <+: encodeFrame m)
    (hlen : p.length < 16 + 16 * m.length) (bs : List Byte) : decodeFrame p ≠ .ok bs := by
  intro h
  obtain ⟨e, h8, hocc⟩ := exists_endMarker_of_decodeFrame_ok h
  obtain ⟨d, rfl⟩ := Nat.exists_eq_add_of_le h8
  obtain ⟨t, ht⟩ := hp
  have hfit : 8 + d + 8 ≤ p.length := hocc.1
  have hframe := occursAt_append hocc t
  rw [ht] at hframe
  exact not_occursAt_endMarker_of_payload m (by omega) hframe

end Sys2Proof.Machine
end

section
/-!
Wire symbols run as instructions (30 R80, R83, R84; log 5): a symbol is the appends of its line bits, and
the symbols of a frame deliver its message at the frame's last bit (43 R210).
-/

namespace Sys2Proof.Machine

/-! ### Symbols as appends -/

theorem exec_symbol {i : Instr} {bits : Bits} (h : symbolBits i = some bits) (s : State) :
    exec i s = .next (appendAll bits s) := by
  cases i with
  | startMarker | endMarker | pairRaw0 | pairRaw1 | pairInvalid00 | pairInvalid11 =>
    cases h
    rfl
  | _ => cases h

theorem execAll_symbols {is : List Instr} (h : ∀ i ∈ is, ∃ bits, symbolBits i = some bits) (s : State) :
    execAll is s = .next (appendAll (bitsOfSymbols is) s) := by
  induction is generalizing s with
  | nil => rfl
  | cons i is ih =>
    obtain ⟨hi, his⟩ := List.forall_mem_cons.mp h
    obtain ⟨bits, hbits⟩ := hi
    rw [execAll, exec_symbol hbits, chain_next, ih his, bitsOfSymbols, bitsOfSymbols, List.flatMap_cons,
      hbits, Option.getD_some, appendAll_append]

theorem exists_symbolBits_of_mem_frameSymbols {m : List Byte} {i : Instr} (h : i ∈ frameSymbols m) :
    ∃ bits, symbolBits i = some bits := by
  simp only [frameSymbols, payloadSymbols, byteSymbols, List.mem_cons, List.mem_append, List.mem_flatMap,
    List.mem_map] at h
  obtain rfl | ⟨b, -, k, -, rfl⟩ | rfl | hnil := h
  · exact ⟨_, rfl⟩
  · split <;> exact ⟨_, rfl⟩
  · exact ⟨_, rfl⟩
  · cases hnil

/-! ### Appends without and with a delivery -/

theorem pushBit_of_room {buf : Bits} (h : buf.length < 10000) (b : Bool) :
    pushBit buf b = buf ++ [b] := by
  rw [pushBit, if_neg]
  rw [List.length_append, Config.params_bufCap, List.length_singleton]
  omega

/-- An append that does not truncate, and whose buffer does not decode, keeps the bit and counts no
message. -/
theorem append_of_not_decoded {b : Bool} {s : State} (hroom : s.asm.buf.length < 10000)
    (h : ∀ bs, decodeFrame (s.asm.buf ++ [b]) ≠ .ok bs) :
    (append b s).asm.buf = s.asm.buf ++ [b] ∧ (append b s).asm.msgCount = s.asm.msgCount := by
  have hpush := pushBit_of_room hroom b
  rcases append_cases b s with ⟨-, e⟩ | ⟨err, -, -, e⟩ | ⟨bs, -, hd, -⟩
  · rw [e]
    exact ⟨hpush, rfl⟩
  · rw [e]
    exact ⟨hpush, rfl⟩
  · rw [hpush] at hd
    exact absurd hd (h bs)

/-- Bits none of whose prefixes makes the buffer decode only fill the buffer. -/
theorem appendAll_of_not_decoded {bits : Bits} {s : State} (hroom : s.asm.buf.length + bits.length ≤ 10000)
    (h : ∀ p, p <+: bits → ∀ bs, decodeFrame (s.asm.buf ++ p) ≠ .ok bs) :
    (appendAll bits s).asm.buf = s.asm.buf ++ bits ∧
      (appendAll bits s).asm.msgCount = s.asm.msgCount := by
  induction bits using List.reverseRecOn with
  | nil => simp [appendAll_nil]
  | append_singleton bits b ih =>
    rw [List.length_append, List.length_singleton] at hroom
    obtain ⟨hbuf, hcount⟩ := ih (by omega) fun p hp => h p (hp.trans (List.prefix_append _ _))
    obtain ⟨hbuf', hcount'⟩ := append_of_not_decoded (b := b) (s := appendAll bits s)
      (by rw [hbuf, List.length_append]; omega)
      (by rw [hbuf, List.append_assoc]; exact h _ (List.prefix_refl _))
    rw [appendAll_append, appendAll_cons, appendAll_nil, hbuf', hcount', hbuf, hcount, List.append_assoc]
    exact ⟨rfl, rfl⟩

/-- A step from `s` to `t` delivers the message `m` and clears the buffer (43 R205, R206). -/
structure Delivers (m : List Byte) (s t : State) : Prop where
  buf : t.asm.buf = []
  valid : t.asm.msgValid = true
  len : t.asm.msgLen.toNat = m.length
  count : t.asm.msgCount = s.asm.msgCount + 1#32
  bytes : ∀ j, (h : j < m.length) → readMem t.mem (0x2000 + j) = some m[j]

/-- An append whose buffer decodes delivers the message (43 R204). -/
theorem append_delivers {b : Bool} {s : State} {m : List Byte}
    (h : decodeFrame (pushBit s.asm.buf b) = .ok m) : Delivers m s (append b s) := by
  rcases append_cases b s with ⟨hshort, -⟩ | ⟨err, -, herr, -⟩ | ⟨bs, -, hok, e⟩
  · have := decodeFrame_length h
    omega
  · rw [h] at herr
    cases herr
  · obtain rfl : m = bs := Except.ok.inj (h.symm.trans hok)
    have hlen := decoded_length_le h
    rw [e]
    refine ⟨rfl, by simp, ?_, by simp, fun j hj => ?_⟩
    · simp only [deliver_asm, BitVec.toNat_ofNat]
      omega
    · simp only [deliver_mem, recordDecode_mem]
      rw [readMem_writeMem, mailboxBytes_length hlen, if_pos (by omega), Nat.add_sub_cancel_left,
        mailboxBytes_getElem? hlen (by omega), List.getD_eq_getElem _ _ hj]

/-- Bits that make the buffer decode with the last of them and not before deliver the message. -/
theorem appendAll_delivers {bits : Bits} {b : Bool} {s : State} {m : List Byte}
    (hroom : s.asm.buf.length + bits.length < 10000)
    (hbefore : ∀ p, p <+: bits → ∀ bs, decodeFrame (s.asm.buf ++ p) ≠ .ok bs)
    (hlast : decodeFrame (s.asm.buf ++ (bits ++ [b])) = .ok m) :
    Delivers m s (appendAll (bits ++ [b]) s) := by
  obtain ⟨hbuf, hcount⟩ := appendAll_of_not_decoded hroom.le hbefore
  have hpush : decodeFrame (pushBit (appendAll bits s).asm.buf b) = .ok m := by
    rw [pushBit_of_room (by rw [hbuf, List.length_append]; omega), hbuf, List.append_assoc, hlast]
  rw [appendAll_append, appendAll_cons, appendAll_nil]
  obtain ⟨hempty, hvalid, hlen, hone, hbytes⟩ := append_delivers hpush
  exact ⟨hempty, hvalid, hlen, hone.trans (by rw [hcount]), hbytes⟩

/-- The appends of a frame into an empty buffer deliver its message with the last bit (43 R210). -/
theorem appendAll_encodeFrame_delivers {s : State} {m : List Byte} (hwf : wellFormedUtf8 m = true)
    (hm : m.length ≤ 624) (hbuf : s.asm.buf = []) : Delivers m s (appendAll (encodeFrame m) s) := by
  have hdecode : decodeFrame (encodeFrame m) = .ok m := by
    rw [decodeFrame_encodeFrame, decodePayload_payloadBits, if_pos hwf]
  have hcut {p : Bits} := decodeFrame_ne_ok_of_prefix (m := m) (p := p)
  have hlen := encodeFrame_length m
  obtain hnil | ⟨bits, b, hsplit⟩ := List.eq_nil_or_concat' (encodeFrame m)
  · rw [hnil, List.length_nil] at hlen
    omega
  rw [hsplit] at hdecode hcut hlen ⊢
  rw [List.length_append, List.length_singleton] at hlen
  apply appendAll_delivers
  · rw [hbuf, List.length_nil]
    omega
  · intro p hp
    have := hp.length_le
    rw [hbuf, List.nil_append]
    exact hcut (hp.trans (List.prefix_append _ _)) (by omega)
  · rw [hbuf, List.nil_append, hdecode]

/-! ### The statements -/

/-- Settles O39: a symbol is the appends of its bits, and an append touches the assembler only. -/
theorem wireSymbolResult : Obligations.WireSymbolResult := by
  intro i bits s h
  obtain ⟨hcmd, hcfg, hirq, htx, hrx, hresp, hclk, hdraw, hinputs⟩ := appendAll_same bits s
  refine ⟨_, exec_symbol h s, rfl, hcmd, hcfg, hirq, htx, hrx, hresp, hclk, hdraw, hinputs,
    fun a ha => appendAll_readMem bits s ?_⟩
  unfold inRxWindow at ha
  omega

/-- Settles O40: the symbols of a frame are the appends of its line bits. -/
theorem symbolsOfAFrameDeliverIt : Obligations.SymbolsOfAFrameDeliverIt := by
  intro s m hwf hlen hbuf
  obtain ⟨hempty, hvalid, hmsg, hcount, hbytes⟩ := appendAll_encodeFrame_delivers hwf hlen hbuf
  refine ⟨appendAll (encodeFrame m) s, ?_, hempty, hvalid, hmsg, hcount, hbytes⟩
  rw [encodeFrame_eq_bitsOfSymbols]
  exact execAll_symbols (fun i => exists_symbolBits_of_mem_frameSymbols) s

end Sys2Proof.Machine
end

section
/-!
What the deframer finds around a payload (40 R105, R111 to R113, R122 to R124): no marker stands in a payload,
no end marker begins before a frame's own, and the bits before and after a frame do not matter.
-/

namespace Sys2Proof.Machine

/-! ### Where markers occur in a frame -/

theorem occursAt_append_iff {s p : Bits} {i : Nat} (h : i + p.length ≤ s.length) (t : Bits) :
    occursAt (s ++ t) p i ↔ occursAt s p i := by
  rw [occursAt, occursAt, List.drop_append_of_le_length (by omega),
    List.take_append_of_le_length (by rw [List.length_drop]; omega), List.length_append]
  exact and_congr_left fun _ => by omega

theorem occursAt_append_add {x s p : Bits} {i : Nat} :
    occursAt (x ++ s) p (x.length + i) ↔ occursAt s p i := by
  rw [← occursAt_drop (by simp), List.drop_left]

theorem occursAt_startMarker_encodeFrame (m : List Byte) :
    occursAt (encodeFrame m) Config.params.startMarker 0 := by
  rw [encodeFrame_eq, List.append_assoc]
  exact occursAt_length_of_append [] _ _

theorem occursAt_endMarker_encodeFrame (m : List Byte) :
    occursAt (encodeFrame m) Config.params.endMarker (8 + 16 * m.length) := by
  have h := occursAt_length_of_append (Config.params.startMarker ++ payloadBits m) Config.params.endMarker []
  rwa [List.append_nil, ← encodeFrame_eq, List.length_append, payloadBits_length] at h

/-- The two line bits of a pair of the payload differ (30 R83). -/
theorem encodeFrame_pair_ne (m : List Byte) {r : Nat} (hr : r < 8 * m.length) :
    (encodeFrame m)[8 + 2 * r]? ≠ (encodeFrame m)[8 + 2 * r + 1]? := by
  obtain ⟨hfirst, hsecond⟩ := encodeFrame_pair m hr
  rw [hfirst, hsecond]
  simp

theorem encodeFrame_getElem?_payload (m : List Byte) {i : Nat} (hi : i < 16 * m.length) :
    (encodeFrame m)[8 + i]? = (payloadBits m)[i]? := by
  rw [encodeFrame_eq, List.append_assoc, List.getElem?_append_right (by simp),
    List.getElem?_append_left (by simpa [payloadBits_length] using hi)]
  simp

/-- Of three line bits in a row two are a pair (40 R105). -/
theorem payloadBits_not_three_equal (m : List Byte) {i : Nat} (hi : i + 2 < 16 * m.length) :
    ¬ ((payloadBits m)[i]? = (payloadBits m)[i + 1]? ∧
      (payloadBits m)[i + 1]? = (payloadBits m)[i + 2]?) := by
  rintro ⟨h01, h12⟩
  rw [← encodeFrame_getElem?_payload m (by omega), ← encodeFrame_getElem?_payload m (by omega)] at h01 h12
  obtain ⟨r, rfl | rfl⟩ := Nat.even_or_odd' i
  · exact encodeFrame_pair_ne m (r := r) (by omega) h01
  · exact encodeFrame_pair_ne m (r := r + 1) (by omega) h12

/-- A pattern that begins with three equal bits begins nowhere in a payload. -/
theorem not_occursAt_payloadBits {p : Bits} (hp : 3 ≤ p.length) (h01 : p[0]? = p[1]?)
    (h12 : p[1]? = p[2]?) (m : List Byte) (i : Nat) : ¬ occursAt (payloadBits m) p i := by
  intro h
  have hfit := h.1
  rw [payloadBits_length] at hfit
  have h0 : (payloadBits m)[i]? = p[0]? := getElem?_of_occursAt h (j := 0) (by omega)
  have h1 : (payloadBits m)[i + 1]? = p[1]? := getElem?_of_occursAt h (by omega)
  have h2 : (payloadBits m)[i + 2]? = p[2]? := getElem?_of_occursAt h (by omega)
  exact payloadBits_not_three_equal m (by omega)
    ⟨h0.trans (h01.trans h1.symm), h1.trans (h12.trans h2.symm)⟩

/-- No end marker begins inside a start marker: from one of its ones, as the end marker begins with a zero;
from its zeros, as the first or second pair of the payload would lie in one half of the end marker. -/
theorem not_occursAt_endMarker_of_start (m : List Byte) {i : Nat} (hi : i < 8) :
    ¬ occursAt (encodeFrame m) Config.params.endMarker i := by
  intro h
  cases m with
  | nil =>
    have hnone : ∀ j < 8, ¬ occursAt (encodeFrame []) Config.params.endMarker j := by
      unfold occursAt
      decide
    exact hnone i hi h
  | cons b m =>
    have hbit {j : Nat} (hj : j < 8) :
        (encodeFrame (b :: m))[i + j]? = Config.params.endMarker[j]? := getElem?_of_occursAt h hj
    have hsame {j : Nat} (hj : j + 1 < 8)
        (heq : Config.params.endMarker[j]? = Config.params.endMarker[j + 1]?) :
        (encodeFrame (b :: m))[i + j]? = (encodeFrame (b :: m))[i + j + 1]? :=
      (hbit (by omega)).trans (heq.trans (hbit hj).symm)
    have hpair {r : Nat} (hr : r < 8) := encodeFrame_pair_ne (b :: m) (r := r) (by simp; omega)
    obtain hone | rfl | rfl | rfl | rfl : i < 4 ∨ i = 4 ∨ i = 5 ∨ i = 6 ∨ i = 7 := by omega
    · have hones : ∀ j < 4, Config.params.startMarker.getD j false = true := by decide
      have hzero := hbit (j := 0) (by decide)
      rw [Nat.add_zero, encodeFrame_getElem? _ (by omega), frameBit_start _ _ hi, hones i hone] at hzero
      cases hzero
    · exact hpair (r := 0) (by decide) (hsame (j := 4) (by decide) rfl)
    · exact hpair (r := 1) (by decide) (hsame (j := 5) (by decide) rfl)
    · exact hpair (r := 0) (by decide) (hsame (j := 2) (by decide) rfl)
    · exact hpair (r := 0) (by decide) (hsame (j := 1) (by decide) rfl)

/-- Settles O19: three equal bits hold a pair, and both markers begin with three equal bits. -/
theorem markerFreePayload : Obligations.MarkerFreePayload := by
  intro m
  dsimp only
  rw [bitsOfSymbols_payloadSymbols]
  refine ⟨fun i hi => ?_, fun i => ⟨?_, ?_⟩, fun i hi => ?_⟩
  · have hget {j : Nat} (hj : j < (payloadBits m).length) :
        (payloadBits m)[j]? = some ((payloadBits m).getD j false) := by simp [hj]
    have h := payloadBits_not_three_equal m (i := i) (by rwa [payloadBits_length] at hi)
    rwa [hget (by omega), hget (by omega), hget hi, Option.some_inj, Option.some_inj] at h
  · exact not_occursAt_payloadBits (by decide) rfl rfl m i
  · exact not_occursAt_payloadBits (by decide) rfl rfl m i
  · obtain hstart | hpay := Nat.lt_or_ge i 8
    · exact not_occursAt_endMarker_of_start m hstart
    · obtain ⟨d, rfl⟩ := Nat.exists_eq_add_of_le hpay
      exact not_occursAt_endMarker_of_payload m (by omega)

/-! ### What surrounds a frame -/

/-- A frame decodes as its payload wherever its start marker is the first. -/
theorem decodeFrame_around {x : Bits} {m : List Byte}
    (hx : ∀ i, i < x.length → ¬ occursAt (x ++ encodeFrame m) Config.params.startMarker i) (y : Bits) :
    decodeFrame (x ++ encodeFrame m ++ y) = decodePayload (payloadBits m) := by
  have hlen : (x ++ encodeFrame m).length = x.length + (16 + 16 * m.length) := by
    rw [List.length_append, encodeFrame_length]
  have hframe {p : Bits} (hp : p.length = 8) {i : Nat} (hi : i ≤ 8 + 16 * m.length) :
      occursAt (x ++ encodeFrame m ++ y) p (x.length + i) ↔ occursAt (encodeFrame m) p i := by
    rw [occursAt_append_iff (by omega), occursAt_append_add]
  have hstart : findBits (x ++ encodeFrame m ++ y) Config.params.startMarker 0 = some x.length := by
    refine (findIsTheLeastOccurrence _ _ _ _).mpr ⟨Nat.zero_le _, ?_, fun j _ hj => ?_⟩
    · exact (hframe rfl (Nat.zero_le _)).mpr (occursAt_startMarker_encodeFrame m)
    · rw [occursAt_append_iff (by rw [hlen]; simp; omega)]
      exact hx j hj
  have hend : findBits (x ++ encodeFrame m ++ y) Config.params.endMarker (x.length + 8) =
      some (x.length + (8 + 16 * m.length)) := by
    refine (findIsTheLeastOccurrence _ _ _ _).mpr ⟨by omega, ?_, fun j hj hlt => ?_⟩
    · exact (hframe rfl le_rfl).mpr (occursAt_endMarker_encodeFrame m)
    · obtain ⟨d, rfl⟩ := Nat.exists_eq_add_of_le hj
      rw [Nat.add_assoc, hframe rfl (by omega)]
      exact not_occursAt_endMarker_of_payload m (by omega)
  have hparts : x ++ encodeFrame m ++ y =
      x ++ Config.params.startMarker ++ payloadBits m ++ (Config.params.endMarker ++ y) := by
    simp only [encodeFrame_eq, List.append_assoc]
  rw [decodeFrame_of_markers hstart hend, hparts,
    List.take_left' (by simp [payloadBits_length]; omega), List.drop_left' (by simp)]

/-- Settles O21: both decode as the payload of the frame. -/
theorem prefixAndSuffixDoNotMatter : Obligations.PrefixAndSuffixDoNotMatter := by
  intro x y m hx
  rw [decodeFrame_around hx y, decodeFrame_encodeFrame]

/-- Settles O20: the frame decodes as its payload, and its length is 16 + 16 L. -/
theorem roundTrip : Obligations.RoundTrip := by
  intro m
  constructor
  · intro hwf
    rw [decodeFrame_encodeFrame, decodePayload_payloadBits, if_pos hwf]
  · rw [encodeFrame_length]
    omega

end Sys2Proof.Machine
end

section
/-!
The order of the deframer's checks (40 R110 to R121): the two searches for markers, then the checks on the
payload between them, and the bytes of its raw bits.
-/

namespace Sys2Proof.Machine

/-! ### The searches -/

theorem findBits_eq_none_iff {s p : Bits} {start : Nat} :
    findBits s p start = none ↔ ∀ i, start ≤ i → ¬ occursAt s p i := by
  classical
  constructor
  · intro hnone i hi hocc
    have hex : ∃ j, start ≤ j ∧ occursAt s p j := ⟨i, hi, hocc⟩
    have hfirst := (findIsTheLeastOccurrence s p start (Nat.find hex)).mpr
      ⟨(Nat.find_spec hex).1, (Nat.find_spec hex).2, fun j hj hlt h => Nat.find_min hex hlt ⟨hj, h⟩⟩
    rw [hnone] at hfirst
    cases hfirst
  · intro h
    rw [Option.eq_none_iff_forall_ne_some]
    intro i hi
    obtain ⟨hle, hocc, -⟩ := (findIsTheLeastOccurrence s p start i).mp hi
    exact h i hle hocc

/-- A pair fails as an odd length or as invalid, never as a missing marker. -/
theorem rawBitsOf_error {k : Nat} {p : Bits} {e : FrameError} (h : rawBitsOf k p = .error e) :
    e = .oddPayloadLength ∨ ∃ j, e = .invalidPair j := by
  induction k, p using rawBitsOf.induct with
  | case1 k => cases h
  | case2 k b =>
    cases h
    exact .inl rfl
  | case3 k b t =>
    simp only [rawBitsOf, ↓reduceIte] at h
    cases h
    exact .inr ⟨k, rfl⟩
  | case4 k a b t hab raw hraw ih => simp [rawBitsOf, hab, hraw] at h
  | case5 k a b t hab e' he ih =>
    simp only [rawBitsOf, hab, ↓reduceIte, he] at h
    exact ih (he.trans h)

/-- The checks on a payload report no marker as missing. -/
theorem decodePayload_ne_missing (p : Bits) :
    decodePayload p ≠ .error .missingStartMarker ∧ decodePayload p ≠ .error .missingEndMarker := by
  unfold decodePayload
  split
  · simp
  split
  next e he =>
    obtain rfl | ⟨j, rfl⟩ := rawBitsOf_error he <;> simp
  next raw _ =>
    split
    · simp
    · split <;> simp

theorem decodeFrame_of_no_start {bits : Bits}
    (hs : findBits bits Config.params.startMarker 0 = none) :
    decodeFrame bits = .error .missingStartMarker := by
  unfold decodeFrame
  rw [hs]

theorem decodeFrame_of_no_end {bits : Bits} {s : Nat}
    (hs : findBits bits Config.params.startMarker 0 = some s)
    (he : findBits bits Config.params.endMarker (s + 8) = none) :
    decodeFrame bits = .error .missingEndMarker := by
  unfold decodeFrame
  rw [hs]
  simp only [he]

theorem decodeFrame_missingStartMarker_iff (bits : Bits) :
    decodeFrame bits = .error .missingStartMarker ↔
      findBits bits Config.params.startMarker 0 = none := by
  cases hs : findBits bits Config.params.startMarker 0 with
  | none => simp [decodeFrame_of_no_start hs]
  | some s =>
    cases he : findBits bits Config.params.endMarker (s + 8) with
    | none => simp [decodeFrame_of_no_end hs he]
    | some e => simp [decodeFrame_of_markers hs he, (decodePayload_ne_missing _).1]

theorem decodeFrame_missingEndMarker_iff (bits : Bits) :
    decodeFrame bits = .error .missingEndMarker ↔
      ∃ s, findBits bits Config.params.startMarker 0 = some s ∧
        findBits bits Config.params.endMarker (s + 8) = none := by
  cases hs : findBits bits Config.params.startMarker 0 with
  | none => simp [decodeFrame_of_no_start hs]
  | some s =>
    simp only [Option.some_inj, exists_eq_left']
    cases he : findBits bits Config.params.endMarker (s + 8) with
    | none => simp [decodeFrame_of_no_end hs he]
    | some e => simp [decodeFrame_of_markers hs he, (decodePayload_ne_missing _).2]

/-- Settles O22: each failure is a search that finds nothing, and a success has room for both markers. -/
theorem decodeFindsItsMarkers : Obligations.DecodeFindsItsMarkers := by
  intro bits
  refine ⟨?_, ?_, fun s e hs he => decodeFrame_of_markers hs he, fun bs hok => ?_⟩
  · rw [decodeFrame_missingStartMarker_iff, findBits_eq_none_iff]
    simp
  · simp only [decodeFrame_missingEndMarker_iff, findBits_eq_none_iff]
  · have := decodeFrame_length hok
    omega

/-! ### The pairs -/

/-- The two line bits from offset `k` on differ, so they are a pair (30 R83, R84). -/
def PairOk (p : Bits) (k : Nat) : Prop := p.getD k false ≠ p.getD (k + 1) false

/-- The second line bits of the pairs of a payload (40 R116). -/
def secondBits (p : Bits) : Bits := (List.range (p.length / 2)).map fun r => p.getD (2 * r + 1) false

theorem secondBits_cons_cons (a b : Bool) (t : Bits) : secondBits (a :: b :: t) = b :: secondBits t := by
  have hlen : (a :: b :: t).length / 2 = t.length / 2 + 1 := by simp only [List.length_cons]; omega
  rw [secondBits, hlen, List.range_succ_eq_map, List.map_cons, List.map_map]
  rfl

theorem secondBits_length (p : Bits) : (secondBits p).length = p.length / 2 := by
  rw [secondBits, List.length_map, List.length_range]

theorem secondBits_getD {p : Bits} {r : Nat} (hr : r < p.length / 2) :
    (secondBits p).getD r false = p.getD (2 * r + 1) false := by
  rw [List.getD_eq_getElem _ _ (by rwa [secondBits_length])]
  simp only [secondBits, List.getElem_map, List.getElem_range]

theorem rawBitsOf_cons_cons {a b : Bool} (hab : a ≠ b) (k : Nat) (t : Bits) :
    rawBitsOf k (a :: b :: t) = (rawBitsOf (k + 2) t).map (b :: ·) := by
  rw [rawBitsOf, if_neg hab]
  cases rawBitsOf (k + 2) t <;> rfl

/-- A payload of valid pairs gives their second bits. -/
theorem rawBitsOf_of_pairOk {p : Bits} (heven : p.length % 2 = 0)
    (h : ∀ k, k % 2 = 0 → k + 1 < p.length → PairOk p k) (i : Nat) :
    rawBitsOf i p = .ok (secondBits p) := by
  induction p using List.twoStepInduction generalizing i with
  | nil => rfl
  | singleton a => simp at heven
  | cons_cons a b t ih _ =>
    simp only [List.length_cons] at heven h
    have hab : a ≠ b := h 0 rfl (by omega)
    have ht := ih (by omega) (fun k hk hlt => h (k + 2) (by omega) (by omega)) (i + 2)
    rw [rawBitsOf_cons_cons hab, ht, secondBits_cons_cons]
    rfl

/-- The first invalid pair is the failure, whatever follows it. -/
theorem rawBitsOf_of_not_pairOk {p : Bits} {k : Nat} (hk : k % 2 = 0) (hlt : k + 1 < p.length)
    (hbad : ¬ PairOk p k) (hbefore : ∀ j, j % 2 = 0 → j < k → PairOk p j) (i : Nat) :
    rawBitsOf i p = .error (.invalidPair (i + k)) := by
  induction p using List.twoStepInduction generalizing i k with
  | nil => simp at hlt
  | singleton a => simp at hlt
  | cons_cons a b t ih _ =>
    by_cases hab : a = b
    · have hzero : k = 0 := Nat.eq_zero_of_not_pos fun hpos => hbefore 0 rfl hpos hab
      rw [hzero, rawBitsOf, if_pos hab, Nat.add_zero]
    · match k with
      | 0 => exact absurd hab hbad
      | 1 => cases hk
      | k + 2 =>
        simp only [List.length_cons] at hlt
        have ht := ih (k := k) (by omega) (by omega) hbad
          (fun j hj hjk => hbefore (j + 2) (by omega) (by omega)) (i + 2)
        rw [rawBitsOf_cons_cons hab, ht, Nat.add_assoc, Nat.add_comm 2 k]
        rfl

/-! ### The bytes -/

/-- Byte `j` of raw bits: the first of its eight bits is the most significant (40 R118). -/
def byteAt (raw : Bits) (j : Nat) : Byte :=
  BitVec.ofNat 8 ((Finset.range 8).sum fun b => (raw.getD (8 * j + b) false).toNat * 2 ^ (7 - b))

theorem byteOfBits_eq_byteAt (b0 b1 b2 b3 b4 b5 b6 b7 : Bool) (t : Bits) :
    byteOfBits [b0, b1, b2, b3, b4, b5, b6, b7] =
      byteAt (b0 :: b1 :: b2 :: b3 :: b4 :: b5 :: b6 :: b7 :: t) 0 := by
  rw [byteOfBits, byteAt]
  congr 1
  simp [Finset.sum_range_succ]
  omega

theorem bytesOfRaw_eq_map (raw : Bits) : bytesOfRaw raw = (List.range (raw.length / 8)).map (byteAt raw) := by
  induction raw using bytesOfRaw.induct with
  | case1 b0 b1 b2 b3 b4 b5 b6 b7 t ih =>
    have hlen : (b0 :: b1 :: b2 :: b3 :: b4 :: b5 :: b6 :: b7 :: t).length / 8 = t.length / 8 + 1 := by
      simp only [List.length_cons]; omega
    rw [bytesOfRaw, hlen, List.range_succ_eq_map, List.map_cons, List.map_map, ih,
      byteOfBits_eq_byteAt b0 b1 b2 b3 b4 b5 b6 b7 t]
    congr 1
  | case2 raw h =>
    have hnil : bytesOfRaw raw = [] := by rw [bytesOfRaw]; exact h
    have hlen := bytesOfRaw_length raw
    rw [hnil, List.length_nil] at hlen
    rw [hnil, ← hlen]
    rfl

/-- The checks that follow when every pair is valid (40 R117 to R120). -/
theorem decodePayload_of_pairOk {p : Bits} (heven : p.length % 2 = 0)
    (h : ∀ k, k % 2 = 0 → k + 1 < p.length → PairOk p k) :
    decodePayload p =
      if p.length % 16 ≠ 0 then .error .notByteAligned
      else if wellFormedUtf8 (bytesOfRaw (secondBits p)) then .ok (bytesOfRaw (secondBits p))
      else .error .invalidUtf8 := by
  have hlen : (secondBits p).length % 8 ≠ 0 ↔ p.length % 16 ≠ 0 := by rw [secondBits_length]; omega
  rw [decodePayload, if_neg (by omega), rawBitsOf_of_pairOk heven h]
  simp only [hlen]

/-- The bytes of a payload of whole bytes, said by its line bits (40 R116, R118). -/
theorem bytesOfRaw_secondBits (p : Bits) :
    bytesOfRaw (secondBits p) = (List.range (p.length / 16)).map fun j =>
      BitVec.ofNat 8
        ((Finset.range 8).sum fun b => (p.getD (2 * (8 * j + b) + 1) false).toNat * 2 ^ (7 - b)) := by
  rw [bytesOfRaw_eq_map, secondBits_length, Nat.div_div_eq_div_mul]
  refine List.map_congr_left fun j hj => ?_
  have hj := List.mem_range.mp hj
  rw [byteAt]
  congr 1
  refine Finset.sum_congr rfl fun b hb => ?_
  have hb := Finset.mem_range.mp hb
  rw [secondBits_getD (by omega)]

/-- Settles O23: the length is looked at first, then the pairs, then the raw bits of valid pairs. -/
theorem payloadChecksInOrder : Obligations.PayloadChecksInOrder := by
  intro p
  dsimp only
  rw [← bytesOfRaw_secondBits]
  refine ⟨fun hodd => ?_, fun k heven hk hlt hbad hbefore => ?_, fun heven h => ?_⟩
  · rw [decodePayload, if_pos hodd]
  · rw [decodePayload, if_neg (by omega), rawBitsOf_of_not_pairOk hk hlt hbad hbefore, Nat.zero_add]
  · have hdec := decodePayload_of_pairOk heven h
    refine ⟨fun hne => ?_, fun halign hbad => ?_, fun halign hwf => ?_⟩
    · rw [hdec, if_pos hne]
    · rw [hdec, if_neg (not_not_intro halign), if_neg (ne_true_of_eq_false hbad)]
    · rw [hdec, if_neg (not_not_intro halign), if_pos hwf]

end Sys2Proof.Machine
end
section
/-!
Well-formed UTF-8 (40 R119): `utf8Splits` takes the first row that matches, and no other row matches there,
so it succeeds exactly when the bytes split into rows of the table.
-/

namespace Sys2Proof.Machine

/-! ### Rows -/

theorem matchesRow_cons (lo hi : Nat) (row : List (Nat × Nat)) (b : Byte) (bs : List Byte) :
    matchesRow ((lo, hi) :: row) (b :: bs) = true ↔
      (lo ≤ b.toNat ∧ b.toNat ≤ hi) ∧ matchesRow row bs = true := by
  simp only [matchesRow, Bool.and_eq_true, decide_eq_true_eq]

theorem length_le_of_matchesRow {row : List (Nat × Nat)} {bs : List Byte} (h : matchesRow row bs = true) :
    row.length ≤ bs.length := by
  induction row, bs using matchesRow.induct with
  | case1 bs => exact Nat.zero_le _
  | case2 r row => cases h
  | case3 lo hi row b bs ih => exact Nat.succ_le_succ (ih ((matchesRow_cons ..).mp h).2)

/-- A row looks at no more bytes than it has bounds. -/
theorem matchesRow_append {row : List (Nat × Nat)} {p : List Byte} (h : row.length ≤ p.length)
    (q : List Byte) : matchesRow row (p ++ q) = matchesRow row p := by
  induction row, p using matchesRow.induct with
  | case1 bs => simp only [matchesRow]
  | case2 r row => cases h
  | case3 lo hi row b bs ih =>
    rw [List.cons_append, matchesRow, matchesRow, ih (Nat.le_of_succ_le_succ h)]

theorem utf8Rows_length_pos : ∀ row ∈ utf8Rows, 0 < row.length := by decide

/-- Rows are told apart by their first byte. -/
theorem utf8Rows_first_bounds_disjoint :
    ∀ row ∈ utf8Rows, ∀ row' ∈ utf8Rows, row = row' ∨
      (row.headD (0, 0)).2 < (row'.headD (0, 0)).1 ∨ (row'.headD (0, 0)).2 < (row.headD (0, 0)).1 := by
  decide

theorem first_bounds_of_matchesRow {row : List (Nat × Nat)} {b : Byte} {bs : List Byte}
    (hrow : row ∈ utf8Rows) (h : matchesRow row (b :: bs) = true) :
    (row.headD (0, 0)).1 ≤ b.toNat ∧ b.toNat ≤ (row.headD (0, 0)).2 := by
  cases row with
  | nil => exact absurd (utf8Rows_length_pos _ hrow) (lt_irrefl 0)
  | cons r row => exact ((matchesRow_cons ..).mp h).1

theorem utf8Rows_eq_of_matchesRow {row row' : List (Nat × Nat)} {b : Byte} {bs : List Byte}
    (hrow : row ∈ utf8Rows) (hrow' : row' ∈ utf8Rows) (h : matchesRow row (b :: bs) = true)
    (h' : matchesRow row' (b :: bs) = true) : row = row' := by
  have hb := first_bounds_of_matchesRow hrow h
  have hb' := first_bounds_of_matchesRow hrow' h'
  obtain heq | hlt | hlt := utf8Rows_first_bounds_disjoint row hrow row' hrow'
  · exact heq
  · omega
  · omega

/-- The search of the table finds the one row that matches. -/
theorem find?_utf8Rows_eq_some_iff {row : List (Nat × Nat)} {b : Byte} {bs : List Byte} :
    utf8Rows.find? (fun row => matchesRow row (b :: bs)) = some row ↔
      row ∈ utf8Rows ∧ matchesRow row (b :: bs) = true := by
  constructor
  · intro h
    exact ⟨List.mem_of_find?_eq_some h, List.find?_some (p := fun row => matchesRow row (b :: bs)) h⟩
  · rintro ⟨hrow, hmatch⟩
    obtain ⟨row', hfind⟩ := Option.isSome_iff_exists.mp
      (List.find?_isSome (p := fun row => matchesRow row (b :: bs)).mpr ⟨row, hrow, hmatch⟩)
    rw [hfind, utf8Rows_eq_of_matchesRow hrow (List.mem_of_find?_eq_some hfind) hmatch
      (List.find?_some (p := fun row => matchesRow row (b :: bs)) hfind)]

/-! ### Splitting into rows -/

/-- The bytes are a concatenation of parts that each match a row (40 R119). -/
def SplitsIntoRows (bs : List Byte) : Prop :=
  ∃ parts : List (List Byte), parts.flatten = bs ∧
    ∀ p ∈ parts, ∃ row ∈ utf8Rows, p.length = row.length ∧ matchesRow row p = true

theorem splitsIntoRows_nil : SplitsIntoRows [] := ⟨[], rfl, by simp⟩

/-- A split of a nonempty sequence is a row and a split of what is left. -/
theorem splitsIntoRows_cons_iff {b : Byte} {bs : List Byte} :
    SplitsIntoRows (b :: bs) ↔ ∃ row ∈ utf8Rows, matchesRow row (b :: bs) = true ∧
      SplitsIntoRows ((b :: bs).drop row.length) := by
  constructor
  · rintro ⟨_ | ⟨p, parts⟩, hflat, hparts⟩
    · cases hflat
    · obtain ⟨⟨row, hrow, hlen, hmatch⟩, hrest⟩ := List.forall_mem_cons.mp hparts
      rw [List.flatten_cons] at hflat
      rw [← hflat]
      exact ⟨row, hrow, by rw [matchesRow_append hlen.ge, hmatch], parts,
        (List.drop_left' hlen).symm, hrest⟩
  · rintro ⟨row, hrow, hmatch, parts, hflat, hparts⟩
    have hlen : ((b :: bs).take row.length).length = row.length := by
      rw [List.length_take, Nat.min_eq_left (length_le_of_matchesRow hmatch)]
    refine ⟨(b :: bs).take row.length :: parts, ?_,
      List.forall_mem_cons.mpr ⟨⟨row, hrow, hlen, ?_⟩, hparts⟩⟩
    · rw [List.flatten_cons, hflat, List.take_append_drop]
    · rw [← matchesRow_append hlen.ge ((b :: bs).drop row.length), List.take_append_drop, hmatch]

theorem utf8Splits_cons_iff {fuel : Nat} {b : Byte} {bs : List Byte} :
    utf8Splits (fuel + 1) (b :: bs) = true ↔ ∃ row ∈ utf8Rows, matchesRow row (b :: bs) = true ∧
      utf8Splits fuel ((b :: bs).drop row.length) = true := by
  have hfind (row : List (Nat × Nat)) := find?_utf8Rows_eq_some_iff (row := row) (b := b) (bs := bs)
  rw [utf8Splits]
  cases h : utf8Rows.find? (fun row => matchesRow row (b :: bs)) with
  | none =>
    simp only [h, reduceCtorEq, false_iff] at hfind
    constructor
    · rintro ⟨⟩
    · rintro ⟨row, hrow, hmatch, -⟩
      exact absurd ⟨hrow, hmatch⟩ (hfind row)
  | some found =>
    simp only [h, Option.some_inj] at hfind
    simp only [← and_assoc, ← hfind, exists_eq_left']

theorem utf8Splits_iff {fuel : Nat} {bs : List Byte} (h : bs.length ≤ fuel) :
    utf8Splits fuel bs = true ↔ SplitsIntoRows bs := by
  induction fuel generalizing bs with
  | zero =>
    obtain rfl := List.length_eq_zero_iff.mp (Nat.le_zero.mp h)
    exact iff_of_true rfl splitsIntoRows_nil
  | succ fuel ih =>
    cases bs with
    | nil => exact iff_of_true rfl splitsIntoRows_nil
    | cons b bs =>
      rw [utf8Splits_cons_iff, splitsIntoRows_cons_iff]
      refine exists_congr fun row => and_congr_right fun hrow => and_congr_right fun _ => ih ?_
      have := utf8Rows_length_pos row hrow
      rw [List.length_drop]
      omega

/-- Settles O24: the bytes' own length is fuel enough, and a frame decodes as its payload. -/
theorem wellFormedMeansItSplitsIntoRows : Obligations.WellFormedMeansItSplitsIntoRows := by
  intro bs
  refine ⟨utf8Splits_iff le_rfl, fun hbad => ?_⟩
  rw [decodeFrame_encodeFrame, decodePayload_payloadBits, if_neg (ne_true_of_eq_false hbad)]

/-- Settles O25: the deframer run on each of the seven bit strings. -/
theorem everyDecodeFailureIsReproducible : Obligations.EveryDecodeFailureIsReproducible :=
  ⟨rfl, rfl, rfl, rfl, rfl, rfl, rfl⟩

end Sys2Proof.Machine
end

section
/-!
The transmit side under the rest of the block: the numbers of a running send (41 R150, R151), and that
neither the receive side nor an access touches a running send, but for the cancel flag (41 R142, R146, R148).
-/

namespace Sys2Proof.Machine

/-! ### Numbers of a send -/

theorem bitPeriod_pos {s : State} (h : 50 ≤ s.tx.bitdur.toNat) : 0 < bitPeriod s :=
  Nat.mul_pos (by omega) (Nat.succ_pos _)

/-- The longest period fits the timer (00 R11, 41 R150). -/
theorem bitPeriod_lt {s : State} (h : s.tx.bitdur.toNat ≤ 1000) : bitPeriod s < 2 ^ 32 := by
  have hclk : clkPerMs s ≤ 4294967 := s.clkIndex.isLt
  calc bitPeriod s ≤ 1000 * 4294967 := Nat.mul_le_mul h hclk
    _ < 2 ^ 32 := by decide

theorem timerStart_toNat {s : State} (h : s.tx.bitdur.toNat ≤ 1000) :
    (timerStart s).toNat = bitPeriod s - 1 := by
  have := bitPeriod_lt h
  rw [timerStart, BitVec.toNat_ofNat, Nat.mod_eq_of_lt (by omega)]

theorem timerStart_lt {s : State} (h : 50 ≤ s.tx.bitdur.toNat ∧ s.tx.bitdur.toNat ≤ 1000) :
    (timerStart s).toNat < bitPeriod s := by
  have := bitPeriod_pos h.1
  rw [timerStart_toNat h.2]
  omega

/-- A progress is at most 100 and fits its field (10 R33). -/
theorem progressPct_toNat {sent total : Nat} (h : sent ≤ total) :
    (progressPct sent total).toNat = sent * 100 / total := by
  have : sent * 100 / total ≤ 100 := Nat.div_le_of_le_mul (Nat.mul_le_mul_right 100 h)
  rw [progressPct, BitVec.toNat_ofNat, Nat.mod_eq_of_lt (by omega)]

/-- A frame's bits take the message's bytes only (40 R100). -/
theorem frameBit_congr {m m' : Nat → Byte} {len : Nat} (h : ∀ j, j < len → m j = m' j) (i : Nat) :
    frameBit m len i = frameBit m' len i := by
  unfold frameBit
  split
  · rfl
  split
  · rw [rawBit, rawBit, h _ (by omega)]
  · rfl

theorem txByte_congr {m m' : Memory} (h : ∀ a, a < 0x2000 → readMem m' a = readMem m a) {j : Nat}
    (hj : j < 2000) (draw : Nat) : txByte m' draw j = txByte m draw j := by
  rw [txByte, txByte, byteOrFree, byteOrFree, h _ (by rw [Config.params_txMsgBase]; omega)]

/-! ### What fixes the frame of a send -/

/-- `t` has the operands of the send that runs in `s`, and the bytes its frame is read from (41 R142). -/
structure SameSend (s t : State) : Prop where
  clkIndex : t.clkIndex = s.clkIndex
  bitdur : t.tx.bitdur = s.tx.bitdur
  len : t.tx.len = s.tx.len
  total : t.tx.total = s.tx.total
  draw : t.tx.draw = s.tx.draw
  mem : ∀ a, a < 0x2000 → readMem t.mem a = readMem s.mem a

theorem SameSend.of_eq {s t : State} (htx : t.tx = s.tx) (hmem : t.mem = s.mem)
    (hclk : t.clkIndex = s.clkIndex) : SameSend s t := by
  refine ⟨hclk, ?_, ?_, ?_, ?_, fun _ _ => by rw [hmem]⟩ <;> rw [htx]

theorem SameSend.refl (s : State) : SameSend s s := .of_eq rfl rfl rfl

theorem SameSend.trans {s t u : State} (h : SameSend s t) (k : SameSend t u) : SameSend s u :=
  ⟨k.clkIndex.trans h.clkIndex, k.bitdur.trans h.bitdur, k.len.trans h.len, k.total.trans h.total,
    k.draw.trans h.draw, fun a ha => (k.mem a ha).trans (h.mem a ha)⟩

theorem SameSend.bitPeriod {s t : State} (h : SameSend s t) : bitPeriod t = bitPeriod s := by
  unfold Machine.bitPeriod clkPerMs
  rw [h.bitdur, h.clkIndex]

theorem SameSend.sendBit {s t : State} (h : SameSend s t) (hlen : s.tx.len.toNat ≤ 2000) (i : Nat) :
    sendBit t t.tx.draw i = sendBit s s.tx.draw i := by
  unfold Machine.sendBit
  rw [h.len, h.draw]
  exact frameBit_congr (fun j hj => txByte_congr h.mem (by omega) _) i

/-- A running send goes on through a change that keeps its operands, its bytes and the sequencer, but for
the cancel flag. -/
theorem TxRunning.of_sameSend {s t : State} (hrun : TxRunning s) (h : SameSend s t) {cancel : Bool}
    (htx : t.tx = { s.tx with cancel := cancel }) : TxRunning t := by
  have hbits := h.sendBit hrun.len
  have hperiod := h.bitPeriod
  obtain ⟨hacquired, hbitdur, hlen, htotal, hindex, hsent, hpct, htimer, hlow, hshown⟩ := hrun
  rw [← hperiod] at htimer
  rw [← hbits] at hshown
  constructor
  case bitShown => rwa [htx] at hshown ⊢
  all_goals rw [htx]; assumption

theorem TxInv.of_running {s : State} (hbusy : s.tx.busy = true) (hrun : TxRunning s) : TxInv s :=
  ⟨fun hidle => absurd (hidle.symm.trans hbusy) (by decide), fun _ => hrun⟩

/-! ### The receive side -/

/-- `t` has the transmit side of `s`: its registers, its bytes, its two interrupt bits, and the script. -/
structure SameTransmit (s t : State) : Prop where
  tx : t.tx = s.tx
  clkIndex : t.clkIndex = s.clkIndex
  inputs : t.inputs = s.inputs
  mem : ∀ a, a < 0x2000 → readMem t.mem a = readMem s.mem a
  irq : ∀ b, b < 2 → t.irqStatus.getLsbD b = s.irqStatus.getLsbD b

theorem SameTransmit.refl (s : State) : SameTransmit s s :=
  ⟨rfl, rfl, rfl, fun _ _ => rfl, fun _ _ => rfl⟩

theorem SameTransmit.trans {s t u : State} (h : SameTransmit s t) (k : SameTransmit t u) :
    SameTransmit s u :=
  ⟨k.tx.trans h.tx, k.clkIndex.trans h.clkIndex, k.inputs.trans h.inputs,
    fun a ha => (k.mem a ha).trans (h.mem a ha), fun b hb => (k.irq b hb).trans (h.irq b hb)⟩

theorem SameTransmit.sameSend {s t : State} (h : SameTransmit s t) : SameSend s t := by
  refine ⟨h.clkIndex, ?_, ?_, ?_, ?_, h.mem⟩ <;> rw [h.tx]

theorem SameTransmit.txInv {s t : State} (h : SameTransmit s t) (hinv : TxInv s) : TxInv t := by
  unfold TxInv
  rw [h.tx]
  exact ⟨hinv.1, fun hbusy => (hinv.2 hbusy).of_sameSend h.sameSend h.tx⟩

/-- The interrupts of the receive side are not the two of the transmit side (60 R244). -/
theorem or_irqMask_getLsbD {r : Irq} (hbit : r ≠ .txBit) (hdone : r ≠ .txDone) (x : BitVec 6) {b : Nat}
    (hb : b < 2) : (x ||| irqMask r).getLsbD b = x.getLsbD b := by
  have hmask : (irqMask r).getLsbD b = false := by
    revert b
    cases r
    case txBit => exact absurd rfl hbit
    case txDone => exact absurd rfl hdone
    all_goals decide
  rw [BitVec.getLsbD_or, hmask, Bool.or_false]

theorem append_sameTransmit (b : Bool) (s : State) : SameTransmit s (append b s) := by
  have hsame := append_same b s
  refine ⟨hsame.tx, hsame.clkIndex, hsame.inputs, fun a ha => append_readMem b s (.inl ha),
    fun i hi => ?_⟩
  rcases append_cases b s with ⟨-, h⟩ | ⟨e, -, -, h⟩ | ⟨bs, -, -, h⟩ <;> rw [h]
  · rfl
  · simp only [deliver_irqStatus, recordDecode_irqStatus]
    exact or_irqMask_getLsbD (by decide) (by decide) _ hi

theorem appendAll_sameTransmit (bs : Bits) (s : State) : SameTransmit s (appendAll bs s) := by
  induction bs generalizing s with
  | nil => exact .refl s
  | cons b bs ih => exact (append_sameTransmit b s).trans (ih (append b s))

theorem debounce_irq (obs : Bool) (sum cnt : Nat) (s : State) {b : Nat} (hb : b < 2) :
    (debounce obs sum cnt s).1.irqStatus.getLsbD b = s.irqStatus.getLsbD b := by
  rcases debounce_cases obs sum cnt s with ⟨-, h⟩ | ⟨-, -, h⟩ | ⟨-, -, -, h⟩ | ⟨-, -, -, h⟩ <;> rw [h]
  case inr.inr.inl => exact or_irqMask_getLsbD (by decide) (by decide) _ hb
  all_goals rfl

theorem sampleFrame_irq (f : Frame) (s : State) {b : Nat} (hb : b < 2) :
    (sampleFrame f s).1.irqStatus.getLsbD b = s.irqStatus.getLsbD b := by
  rw [sampleFrame_eq]
  split
  · rfl
  · exact debounce_irq _ _ _ _ hb

theorem sampleFrame_sameTransmit (f : Frame) (s : State) : SameTransmit s (sampleFrame f s).1 := by
  have hsame := sampleFrame_same f s
  exact ⟨hsame.tx, hsame.clkIndex, hsame.inputs, fun _ _ => by rw [hsame.mem],
    fun _ hb => sampleFrame_irq f s hb⟩

/-- A capture event does nothing, opens or fails the session, counts a skip, or samples its frame
(42 R171 to R179). -/
theorem exec_event_cases {e : BitVec 3} {f : Frame} {s t : State}
    (h : exec (decodeEvent e f) s = .next t) :
    t = s ∨ (s.rx.session = .opening ∧ t = { s with rx := { s.rx with session := .active } }) ∨
    (∃ cause, t = failSession cause s) ∨ t = countSkip s ∨
    t = assemblerPhase (sampleFrame f s).2 (sampleFrame f s).1 := by
  rcases eventCode_cases e with rfl | rfl | rfl | rfl | rfl | rfl | rfl | rfl
  · cases h; exact .inl rfl
  · change execEvtOpenOk s = _ at h
    unfold execEvtOpenOk at h
    split at h <;> cases h
    · exact .inr (.inl ⟨‹_›, rfl⟩)
    · exact .inl rfl
  · change execEvtOpenFail s = _ at h
    unfold execEvtOpenFail at h
    split at h <;> cases h
    · exact .inr (.inr (.inl ⟨_, rfl⟩))
    · exact .inl rfl
  · change execEvtFrame f s = _ at h
    unfold execEvtFrame at h
    split at h <;> cases h
    · exact .inr (.inr (.inr (.inr rfl)))
    · exact .inl rfl
  · change execEvtFrameFail s = _ at h
    unfold execEvtFrameFail at h
    split at h <;> cases h
    · exact .inr (.inr (.inr (.inl rfl)))
    · exact .inl rfl
  · change execEvtFatal s = _ at h
    unfold execEvtFatal at h
    split at h <;> cases h
    · exact .inl rfl
    · exact .inr (.inr (.inl ⟨_, rfl⟩))
  · cases h; exact .inl rfl
  · cases h; exact .inl rfl

theorem assemblerPhase_sameTransmit (b : Option Bool) (s : State) :
    SameTransmit s (assemblerPhase b s) := by
  cases b with
  | none => exact .refl s
  | some b => exact append_sameTransmit b s

/-- The RX and assembler phases leave the transmit side alone (60 R250). -/
theorem exec_event_sameTransmit {e : BitVec 3} {f : Frame} {s t : State}
    (h : exec (decodeEvent e f) s = .next t) : SameTransmit s t := by
  obtain rfl | ⟨-, rfl⟩ | ⟨cause, rfl⟩ | rfl | rfl := exec_event_cases h
  · exact .refl _
  · exact ⟨rfl, rfl, rfl, fun _ _ => rfl, fun _ _ => rfl⟩
  · exact ⟨rfl, rfl, rfl, fun _ _ => rfl, fun _ hb => or_irqMask_getLsbD (by decide) (by decide) _ hb⟩
  · exact ⟨rfl, rfl, rfl, fun _ _ => rfl, fun _ _ => rfl⟩
  · exact (sampleFrame_sameTransmit f s).trans (assemblerPhase_sameTransmit _ _)

/-! ### TX_SEND -/

/-- TX_SEND in Idle is rejected, or passes its checks and is accepted (41 R144). -/
theorem txSend_idle_cases {s : State} (hidle : s.tx.busy = false) :
    (∃ code draw, txSend s = rejectCommand 0x01#8 code { s with freshDraw := draw }) ∨
    ((50 ≤ s.tx.bitdur.toNat ∧ s.tx.bitdur.toNat ≤ 1000) ∧ s.tx.len.toNat ≤ 2000 ∧
      ∃ chars draw draw', txSend s = acceptSend chars draw { s with freshDraw := draw' }) := by
  unfold txSend
  rw [if_neg (by rw [hidle]; exact Bool.false_ne_true)]
  split
  · exact .inl ⟨_, s.freshDraw, rfl⟩
  split
  · exact .inl ⟨_, s.freshDraw, rfl⟩
  split
  · exact .inl ⟨_, _, rfl⟩
  next hbitdur hlen _ =>
    rw [Bool.not_eq_true', Bool.not_eq_false, validBitdur_iff] at hbitdur
    exact .inr ⟨hbitdur, not_lt.mp hlen, _, _, _, rfl⟩

/-- A send as the cycle that accepts it leaves it (41 R140). -/
structure SendStarted (s : State) : Prop where
  running : TxRunning s
  busy : s.tx.busy = true
  phase : s.tx.phase = .bits
  cancel : s.tx.cancel = false
  bitIndex : s.tx.bitIndex = 0#16
  timer : s.tx.timer = timerStart s
  irq : s.irqStatus.getLsbD 0 = true

theorem total_toNat {len : Nat} (h : len ≤ 2000) :
    (BitVec.ofNat 16 (frameLength len)).toNat = 16 + 16 * len := by
  rw [frameLength_eq, BitVec.toNat_ofNat, Nat.mod_eq_of_lt (by omega)]

theorem acceptSend_started {s : State} (hbitdur : 50 ≤ s.tx.bitdur.toNat ∧ s.tx.bitdur.toNat ≤ 1000)
    (hlen : s.tx.len.toNat ≤ 2000) (chars draw : Nat) : SendStarted (acceptSend chars draw s) := by
  have htotal := total_toNat hlen
  refine ⟨?_, rfl, rfl, rfl, rfl, rfl, ?_⟩
  · constructor
    case acquired => rfl
    case bitdur => exact hbitdur
    case len => exact hlen
    case total => exact htotal
    case index => exact Nat.lt_of_lt_of_eq (by omega : 0 < 16 + 16 * s.tx.len.toNat) htotal.symm
    case sent => rfl
    case pct =>
      refine (progressPct_toNat (by rw [frameLength_eq]; omega)).trans ?_
      rw [frameLength_eq]
      exact congrArg _ htotal.symm
    case timer => exact timerStart_lt hbitdur
    case guardLow => rintro ⟨⟩
    case bitShown => exact fun _ => rfl
  · rw [acceptSend_irqStatus, BitVec.getLsbD_or]
    exact Bool.or_true _

end Sys2Proof.Machine
end

section
/-!
What the bus phase does to the transmit side (20 R66, 41 R140, R146, R148, 44 R220): it answers an access
and touches no more than flags and settings, runs a command, or stores a transmit operand in Idle.
-/

namespace Sys2Proof.Machine

/-! ### Commands -/

/-- What every command word leaves alone or keeps (44 R225). -/
structure CommandKeeps (s t : State) : Prop where
  mem : t.mem = s.mem
  clkIndex : t.clkIndex = s.clkIndex
  inputs : t.inputs = s.inputs
  rx : RxInv s.rx → RxInv t.rx
  asm : AsmInv s.asm → AsmInv t.asm

/-- None of the two transmit interrupts is set from `s` to `t`; a host's write may clear them (60 R247). -/
def NoTxIrqSet (s t : State) : Prop :=
  ∀ b, b < 2 → t.irqStatus.getLsbD b = true → s.irqStatus.getLsbD b = true

theorem NoTxIrqSet.rejectCommand (op : BitVec 8) (code : CmdCode) (s : State) :
    NoTxIrqSet s (rejectCommand op code s) := by
  intro b hb hset
  rwa [rejectCommand_irqStatus, or_irqMask_getLsbD (by decide) (by decide) _ hb] at hset

theorem txSend_keeps (s : State) : CommandKeeps s (txSend s) := by
  unfold txSend
  split_ifs <;> exact ⟨rfl, rfl, rfl, id, id⟩

theorem execRxStart_keeps {s t : State} (h : execRxStart s = .next t) : CommandKeeps s t := by
  unfold execRxStart at h
  split at h <;> cases h
  · refine ⟨rfl, rfl, rfl, fun _ => ?_, fun hasm => ⟨Nat.zero_le _, hasm.2.1, fun _ => rfl⟩⟩
    exact ⟨iff_of_true rfl (by rintro ⟨⟩), fun _ => ⟨rfl, rfl⟩, by rintro ⟨⟩⟩
  · exact ⟨rfl, rfl, rfl, id, id⟩

theorem execRxStop_keeps {s t : State} (h : execRxStop s = .next t) : CommandKeeps s t := by
  cases h
  split
  · exact ⟨rfl, rfl, rfl, id, id⟩
  · exact ⟨rfl, rfl, rfl, fun hrx => ⟨iff_of_false Bool.false_ne_true (not_not.mpr rfl), hrx.2⟩, id⟩

theorem exec_command_keeps {w : Word} {s t : State} (h : exec (decodeCommand w) s = .next t) :
    CommandKeeps s t := by
  rcases decodeCommand_cases w with ⟨-, e⟩ | ⟨-, e⟩ | ⟨-, e⟩ | ⟨-, e⟩ | ⟨-, e⟩ | ⟨-, e⟩ | ⟨op, e⟩ <;>
    rw [e] at h
  case inr.inl => cases h; exact txSend_keeps s
  case inr.inr.inl => cases h; split <;> exact ⟨rfl, rfl, rfl, id, id⟩
  case inr.inr.inr.inl => exact execRxStart_keeps h
  case inr.inr.inr.inr.inl => exact execRxStop_keeps h
  all_goals cases h; exact ⟨rfl, rfl, rfl, id, id⟩

/-- A command word sends, stops, or leaves the sequencer alone (44 R221). -/
theorem exec_command_tx {w : Word} {s t : State} (h : exec (decodeCommand w) s = .next t) :
    (w = 1#32 ∧ t = txSend s) ∨
    (w = 2#32 ∧ t = cmdResult 0x02#8 .accepted
      (if s.tx.busy then { s with tx := { s.tx with cancel := true } } else s)) ∨
    (t.tx = s.tx ∧ NoTxIrqSet s t) := by
  rcases decodeCommand_cases w with ⟨-, e⟩ | ⟨hw, e⟩ | ⟨hw, e⟩ | ⟨-, e⟩ | ⟨-, e⟩ | ⟨-, e⟩ | ⟨op, e⟩ <;>
    rw [e] at h
  case inr.inl => cases h; exact .inl ⟨hw, rfl⟩
  case inr.inr.inl => cases h; exact .inr (.inl ⟨hw, rfl⟩)
  case inr.inr.inr.inl =>
    change execRxStart s = _ at h
    unfold execRxStart at h
    split at h <;> cases h <;> exact .inr (.inr ⟨rfl, fun _ _ => id⟩)
  case inr.inr.inr.inr.inl =>
    cases h
    split <;> exact .inr (.inr ⟨rfl, fun _ _ => id⟩)
  case inr.inr.inr.inr.inr.inr => cases h; exact .inr (.inr ⟨rfl, .rejectCommand _ _ s⟩)
  all_goals cases h; exact .inr (.inr ⟨rfl, fun _ _ => id⟩)

/-! ### The bus phase -/

/-- An access changed the response, the flags and the settings at most. -/
structure QuietAccess (s t : State) : Prop where
  tx : t.tx = s.tx
  rx : t.rx = s.rx
  asm : t.asm = s.asm
  mem : t.mem = s.mem
  clkIndex : t.clkIndex = s.clkIndex
  inputs : t.inputs = s.inputs
  irq : NoTxIrqSet s t

theorem QuietAccess.refl (s : State) : QuietAccess s s :=
  ⟨rfl, rfl, rfl, rfl, rfl, rfl, fun _ _ => id⟩

theorem readAccess_quiet (r : Reg) (s : State) : QuietAccess s (readAccess r s) := by
  rw [readAccess_eq]
  exact ⟨rfl, rfl, rfl, rfl, rfl, rfl, fun _ _ => id⟩

theorem clearIrq_noTxIrqSet (w : Word) (s : State) : NoTxIrqSet s (clearIrq w s) := by
  intro b _ hset
  rw [clearIrq_irqStatus, BitVec.getLsbD_and] at hset
  exact (Bool.and_eq_true_iff.mp hset).1

/-- A word of TX_MSG is one of 500 (20 R62). -/
theorem accessedReg_txMsg {a : BusAccess} {k : Nat} (h : accessedReg a = some (.txMsg k)) : k < 500 := by
  unfold accessedReg at h
  split at h
  swap
  · cases h
  by_cases htx : 0x1000 ≤ a.addr.toNat ∧ a.addr.toNat < 0x17D0
  · rw [regAt_txMsg htx.1 htx.2] at h
    cases h
    omega
  by_cases hrx : 0x2000 ≤ a.addr.toNat ∧ a.addr.toNat < 0x2270
  · rw [regAt_rxMsg hrx.1 hrx.2] at h
    cases h
  rw [regAt_table htx hrx] at h
  obtain ⟨_, _, hsplit, -⟩ := List.lookup_eq_some_iff.mp h
  have hmem : (a.addr.toNat, Reg.txMsg k) ∈ regTable := by simp [hsplit]
  simp [regTable] at hmem

theorem unlessBusy_cases (s t : State) :
    unlessBusy s t = s ∨ (s.tx.busy = false ∧ unlessBusy s t = t) := by
  unfold unlessBusy
  cases s.tx.busy
  · exact .inr ⟨rfl, rfl⟩
  · exact .inl rfl

/-- A write is a quiet one, a command, or stores a transmit operand in Idle (41 R148). -/
theorem writeReg_cases {r : Reg} {w : Word} {s t : State} (h : writeReg r w s = .next t) :
    QuietAccess s t ∨ (r = .cmd ∧ exec (decodeCommand w) s = .next t) ∨
    (s.tx.busy = false ∧ ∃ d l, t = { s with tx := { s.tx with bitdur := d, len := l } }) ∨
    (s.tx.busy = false ∧ ∃ k, r = .txMsg k ∧
      t = { s with mem := writeMem s.mem (txWordAddr k) (bytesOfWord w) }) := by
  cases r
  case cmd => exact .inr (.inl ⟨rfl, h⟩)
  case irqStatus =>
    cases h
    exact .inl ⟨rfl, rfl, rfl, rfl, rfl, rfl, clearIrq_noTxIrqSet w s⟩
  case txBitdur =>
    cases h
    exact (unlessBusy_cases s _).imp (fun e => by rw [e]; exact .refl s)
      fun ⟨hidle, e⟩ => .inr (.inl ⟨hidle, _, s.tx.len, e⟩)
  case txLen =>
    cases h
    exact (unlessBusy_cases s _).imp (fun e => by rw [e]; exact .refl s)
      fun ⟨hidle, e⟩ => .inr (.inl ⟨hidle, s.tx.bitdur, _, e⟩)
  case txMsg k =>
    cases h
    exact (unlessBusy_cases s _).imp (fun e => by rw [e]; exact .refl s)
      fun ⟨hidle, e⟩ => .inr (.inr ⟨hidle, k, rfl, e⟩)
  all_goals
    cases h
    exact .inl ⟨rfl, rfl, rfl, rfl, rfl, rfl, fun _ _ => id⟩

/-- The bus phase of a cycle is a quiet one, runs the word written to CMD, or stores a transmit operand in
Idle. -/
theorem busPhase_inversion {c : Cycle} {s t : State} (h : busPhase c.bus s = .next t) :
    QuietAccess s t ∨
    (∃ w, writesCmd c w ∧ exec (decodeCommand w) (respond 0#32 false s) = .next t) ∨
    (s.tx.busy = false ∧ ∃ d l,
      t = { respond 0#32 false s with tx := { s.tx with bitdur := d, len := l } }) ∨
    (s.tx.busy = false ∧ ∃ k w, k < 500 ∧
      t = { respond 0#32 false s with mem := writeMem s.mem (txWordAddr k) (bytesOfWord w) }) := by
  rcases busPhase_cases c.bus s with ⟨-, e⟩ | ⟨a, -, -, e⟩ | ⟨a, r, -, -, -, e⟩ | ⟨a, r, ha, hr, hw, e⟩ <;>
    rw [e] at h
  · cases h; exact .inl ⟨rfl, rfl, rfl, rfl, rfl, rfl, fun _ _ => id⟩
  · cases h; exact .inl ⟨rfl, rfl, rfl, rfl, rfl, rfl, fun _ _ => id⟩
  · cases h; exact .inl (readAccess_quiet r s)
  · obtain hquiet | ⟨rfl, hcmd⟩ | ⟨hidle, d, l, ht⟩ | ⟨hidle, k, rfl, ht⟩ := writeReg_cases h
    · exact .inl ⟨hquiet.tx, hquiet.rx, hquiet.asm, hquiet.mem, hquiet.clkIndex, hquiet.inputs, hquiet.irq⟩
    · exact .inr (.inl ⟨_, ⟨a, ha, hw, hr, rfl⟩, hcmd⟩)
    · exact .inr (.inr (.inl ⟨hidle, d, l, ht⟩))
    · exact .inr (.inr (.inr ⟨hidle, k, _, accessedReg_txMsg hr, ht⟩))

end Sys2Proof.Machine
end

section
/-!
The invariant under one step (10 R52, R55; 41 R148 to R157; 42 R170, R180; 43 R207, R209): every phase of a
cycle keeps it, and none but a reset changes what fixes the frame of a running send (41 R142).
-/

namespace Sys2Proof.Machine

/-! ### The bus phase -/

/-- An access leaves a running send alone, but for the cancel flag (41 R146, R148). -/
theorem busPhase_sameSend {b : Option BusAccess} {s t : State} (hbusy : s.tx.busy = true)
    (h : busPhase b s = .next t) : SameSend s t ∧ t.tx = { s.tx with cancel := t.tx.cancel } := by
  obtain ⟨hmem, hclk, -, htx⟩ := busPhase_busy hbusy h
  obtain ⟨cancel, htx⟩ : ∃ cancel, t.tx = { s.tx with cancel := cancel } := by
    obtain htx | ⟨htx, -⟩ := htx
    · exact ⟨s.tx.cancel, htx⟩
    · exact ⟨true, htx⟩
  rw [htx]
  exact ⟨⟨hclk, by rw [htx], by rw [htx], by rw [htx], by rw [htx], fun _ _ => by rw [hmem]⟩, rfl⟩

theorem busPhase_busy_of_busy {b : Option BusAccess} {s t : State} (hbusy : s.tx.busy = true)
    (h : busPhase b s = .next t) : t.tx.busy = true := by
  rw [(busPhase_sameSend hbusy h).2]
  exact hbusy

/-- From Idle an access sets TX_BITDUR and TX_LEN at most, or starts a send by a TX_SEND. -/
theorem busPhase_idle {c : Cycle} {s t : State} (hidle : s.tx.busy = false)
    (h : busPhase c.bus s = .next t) :
    (∃ d l, t.tx = { s.tx with bitdur := d, len := l }) ∨ (writesCmd c 1#32 ∧ SendStarted t) := by
  have hkept : t.tx = s.tx → ∃ d l, t.tx = { s.tx with bitdur := d, len := l } := fun e => ⟨_, _, e⟩
  obtain hquiet | ⟨w, hw, hcmd⟩ | ⟨-, d, l, rfl⟩ | ⟨-, k, w, -, rfl⟩ := busPhase_inversion h
  · exact .inl (hkept hquiet.tx)
  · obtain ⟨rfl, rfl⟩ | ⟨rfl, rfl⟩ | ⟨htx, -⟩ := exec_command_tx hcmd
    · obtain ⟨_, _, e⟩ | ⟨hbitdur, hlen, _, _, _, e⟩ := txSend_idle_cases (s := respond 0#32 false s) hidle
      · rw [e]
        exact .inl ⟨_, _, rfl⟩
      · rw [e]
        exact .inr ⟨hw, acceptSend_started (by exact hbitdur) (by exact hlen) _ _⟩
    · refine .inl (hkept ?_)
      rw [cmdResult_tx, if_neg (by rw [respond_tx, hidle]; exact Bool.false_ne_true), respond_tx]
    · exact .inl (hkept htx)
  · exact .inl ⟨d, l, rfl⟩
  · exact .inl (hkept rfl)

theorem busPhase_txInv {c : Cycle} {s t : State} (hinv : TxInv s) (h : busPhase c.bus s = .next t) :
    TxInv t := by
  cases hbusy : s.tx.busy with
  | true =>
    obtain ⟨hsame, htx⟩ := busPhase_sameSend hbusy h
    exact .of_running (busPhase_busy_of_busy hbusy h) ((hinv.2 hbusy).of_sameSend hsame htx)
  | false =>
    obtain ⟨d, l, htx⟩ | ⟨-, hstart⟩ := busPhase_idle hbusy h
    · have hidle := hinv.1 hbusy
      unfold TxInv
      rw [htx]
      exact ⟨fun _ => hidle, fun hb => absurd (hb.symm.trans hbusy) (by decide)⟩
    · exact .of_running hstart.busy hstart.running

theorem MemInv.congr {s t : State} (hinv : MemInv s) (hmem : t.mem = s.mem) : MemInv t := by
  unfold MemInv
  rwa [hmem]

theorem MemInv.of_write {s t : State} (hinv : MemInv s) {base : Nat} {bs : List Byte}
    (hmem : t.mem = writeMem s.mem base bs)
    (hwindow : ∀ a, base ≤ a → a < base + bs.length → inTxWindow a ∨ inRxWindow a) : MemInv t := by
  unfold MemInv
  rw [hmem]
  refine ⟨wf_writeMem hinv.1 base bs, fun c hc => ?_⟩
  obtain hold | ⟨hlo, hhi⟩ := mem_writeMem hc
  · exact hinv.2 c hold
  · exact hwindow c.1 hlo hhi

theorem busPhase_inv {c : Cycle} {s t : State} (hinv : Inv s) (h : busPhase c.bus s = .next t) : Inv t := by
  obtain ⟨hmem, htx, hrx, hasm⟩ := hinv
  have htx' := busPhase_txInv htx h
  obtain hquiet | ⟨w, -, hcmd⟩ | ⟨-, d, l, rfl⟩ | ⟨-, k, w, hk, rfl⟩ := busPhase_inversion h
  · exact ⟨hmem.congr hquiet.mem, htx', hquiet.rx ▸ hrx, hquiet.asm ▸ hasm⟩
  · have hkeeps := exec_command_keeps hcmd
    exact ⟨hmem.congr hkeeps.mem, htx', hkeeps.rx hrx, hkeeps.asm hasm⟩
  · exact ⟨hmem, htx', hrx, hasm⟩
  · refine ⟨hmem.of_write rfl fun a hlo hhi => .inl ?_, htx', hrx, hasm⟩
    have hlen : (bytesOfWord w).length = 4 := rfl
    rw [txWordAddr, Config.params_txMsgBase] at hlo hhi
    exact ⟨by omega, by omega⟩

/-! ### The TX phase -/

theorem txPhase_sameSend {b : Bool} {s t : State} (h : txPhase b s = .next t) : SameSend s t := by
  have hsame := txPhase_same h
  rcases txPhase_cases b s with ⟨-, e⟩ | ⟨-, -, e⟩ | ⟨-, -, -, -, e⟩ | ⟨-, -, -, -, -, e⟩ | ⟨-, -, -, e⟩ |
    ⟨-, -, -, -, -, e⟩ <;> rw [e] at h <;> cases h <;>
    exact ⟨rfl, rfl, rfl, rfl, rfl, fun _ _ => by rw [hsame.mem]⟩

theorem countDown_txRunning {s : State} (hrun : TxRunning s) (htimer : s.tx.timer ≠ 0#32) :
    TxRunning { s with tx := { s.tx with timer := s.tx.timer - 1#32 } } := by
  obtain ⟨hacquired, hbitdur, hlen, htotal, hindex, hsent, hpct, hlt, hlow, hshown⟩ := hrun
  refine ⟨hacquired, hbitdur, hlen, htotal, hindex, hsent, hpct, ?_, hlow, hshown⟩
  exact Nat.lt_of_le_of_lt (by simp only; bv_omega) hlt

theorem startGuard_txRunning {s : State} (hrun : TxRunning s) : TxRunning (startGuard s) := by
  obtain ⟨hacquired, hbitdur, hlen, htotal, hindex, hsent, hpct, -, -, -⟩ := hrun
  exact ⟨hacquired, hbitdur, hlen, htotal, hindex, hsent, hpct, timerStart_lt hbitdur, fun _ => rfl,
    by rintro ⟨⟩⟩

/-- The next bit of a frame stays in the frame (41 R151). -/
theorem startNextBit_txRunning {s : State} (hrun : TxRunning s) (hphase : s.tx.phase = .bits)
    (hnext : s.tx.bitIndex.toNat + 1 < s.tx.total.toNat) : TxRunning (startNextBit s) := by
  obtain ⟨hacquired, hbitdur, hlen, htotal, -, -, -, -, -, -⟩ := hrun
  have hindex : (startNextBit s).tx.bitIndex.toNat = s.tx.bitIndex.toNat + 1 := by
    simp only [startNextBit, setIrq_tx, BitVec.toNat_ofNat]
    omega
  have hsent : (startNextBit s).tx.sent.toNat = s.tx.bitIndex.toNat + 1 + 1 := by
    simp only [startNextBit, setIrq_tx, BitVec.toNat_ofNat]
    omega
  refine ⟨hacquired, hbitdur, hlen, htotal, ?_, ?_, ?_, timerStart_lt hbitdur, ?_, fun _ => ?_⟩
  · rw [hindex]
    exact hnext
  · rw [hindex, hsent]
  · rw [hsent]
    exact progressPct_toNat hnext
  · intro hguard
    exact absurd (hguard.symm.trans hphase) (by decide)
  · rw [hindex]
    rfl

theorem endSend_txIdle (s : State) : TxIdle (endSend s).tx := ⟨rfl, rfl, rfl, rfl⟩

theorem txPhase_txInv {b : Bool} {s t : State} (hinv : TxInv s) (hb : b = true → s.tx.busy = true)
    (h : txPhase b s = .next t) : TxInv t := by
  rcases txPhase_cases b s with ⟨-, e⟩ | ⟨hbt, htimer, e⟩ | ⟨hbt, -, -, -, e⟩ |
    ⟨hbt, -, hphase, -, hnext, e⟩ | ⟨-, -, -, e⟩ | ⟨-, -, -, -, -, e⟩ <;> rw [e] at h <;> cases h
  · exact hinv
  · exact .of_running (hb hbt) (countDown_txRunning (hinv.2 (hb hbt)) htimer)
  · exact .of_running (hb hbt) (startGuard_txRunning (hinv.2 (hb hbt)))
  · exact .of_running (hb hbt)
      (startNextBit_txRunning (hinv.2 (hb hbt)) hphase ((nextBitInFrame_iff _).mp hnext).2.2)
  · exact ⟨fun _ => endSend_txIdle _, by rintro ⟨⟩⟩

theorem txPhase_inv {b : Bool} {s t : State} (hinv : Inv s) (hb : b = true → s.tx.busy = true)
    (h : txPhase b s = .next t) : Inv t := by
  obtain ⟨hmem, htx, hrx, hasm⟩ := hinv
  have hsame := txPhase_same h
  exact ⟨hmem.congr hsame.mem, txPhase_txInv htx hb h, hsame.rx ▸ hrx, hsame.asm ▸ hasm⟩

theorem txPhases_inv {n : Nat} {s t : State} (hinv : Inv s) (h : txPhases n s = .next t) : Inv t := by
  induction n generalizing s with
  | zero => cases h; exact hinv
  | succ n ih =>
    obtain ⟨u, hu, ht⟩ := chain_eq_next.mp h
    exact ih (txPhase_inv hinv id hu) ht

theorem txPhases_sameSend {n : Nat} {s t : State} (h : txPhases n s = .next t) : SameSend s t := by
  induction n generalizing s with
  | zero => cases h; exact .refl _
  | succ n ih =>
    obtain ⟨u, hu, ht⟩ := chain_eq_next.mp h
    exact (txPhase_sameSend hu).trans (ih ht)

/-! ### The receive side -/

theorem decPosOf_eq_zero {r : Except FrameError (List Byte)} (h : decCodeOf r ≠ .invalidPair) :
    decPosOf r = 0#16 := by
  rcases r with e | bs
  · cases e
    case invalidPair => exact absurd rfl h
    all_goals rfl
  · rfl

theorem append_memInv {b : Bool} {s : State} (hinv : MemInv s) : MemInv (append b s) := by
  rcases append_cases b s with ⟨-, h⟩ | ⟨e, -, -, h⟩ | ⟨bs, -, hok, h⟩
  · rw [h]
    exact hinv
  · rw [h]
    exact hinv
  · have hlen := mailboxBytes_length (decoded_length_le hok)
    refine hinv.of_write (base := 0x2000) (bs := mailboxBytes bs) (by rw [h]; simp) fun a hlo hhi => .inr ?_
    exact ⟨hlo, by omega⟩

theorem append_asmInv {b : Bool} {s : State} (hinv : AsmInv s.asm) : AsmInv (append b s).asm := by
  obtain ⟨-, hlen, hpos⟩ := hinv
  have hbuf := pushBit_length_le s.asm.buf b
  rcases append_cases b s with ⟨-, h⟩ | ⟨e, -, -, h⟩ | ⟨bs, -, hok, h⟩ <;> rw [h]
  · exact ⟨hbuf, hlen, hpos⟩
  · exact ⟨hbuf, hlen, decPosOf_eq_zero⟩
  · have := decoded_length_le hok
    simp only [deliver_asm, recordDecode_asm]
    refine ⟨Nat.zero_le _, ?_, fun _ => rfl⟩
    simp only [BitVec.toNat_ofNat]
    omega

theorem append_inv {b : Bool} {s : State} (hinv : Inv s) : Inv (append b s) := by
  obtain ⟨hmem, htx, hrx, hasm⟩ := hinv
  exact ⟨append_memInv hmem, (append_sameTransmit b s).txInv htx, (append_same b s).rx ▸ hrx,
    append_asmInv hasm⟩

theorem appendAll_inv {bs : Bits} {s : State} (hinv : Inv s) : Inv (appendAll bs s) := by
  induction bs generalizing s with
  | nil => exact hinv
  | cons b bs ih => exact ih (append_inv hinv)

theorem nextRun_pos (run : BitVec 8) : 1 ≤ (nextRun run).toNat := by
  rw [nextRun, Config.params_runMax, BitVec.toNat_ofNat]
  omega

theorem setCandidate_rxInv {val : Bool} {run : BitVec 8} {s : State} (hrun : 1 ≤ run.toNat)
    (hinv : RxInv s.rx) : RxInv (setCandidate val run s).rx :=
  ⟨hinv.1, by rintro ⟨⟩, fun _ => hrun⟩

theorem debounce_rxInv (obs : Bool) (sum cnt : Nat) {s : State} (hinv : RxInv s.rx) :
    RxInv (debounce obs sum cnt s).1.rx := by
  rcases debounce_cases obs sum cnt s with ⟨-, h⟩ | ⟨-, -, h⟩ | ⟨-, -, -, h⟩ | ⟨-, -, -, h⟩ <;> rw [h]
  case inr.inl => exact setCandidate_rxInv (nextRun_pos _) hinv
  all_goals exact setCandidate_rxInv le_rfl hinv

theorem sampleFrame_rxInv {f : Frame} {s : State} (hinv : RxInv s.rx) : RxInv (sampleFrame f s).1.rx := by
  rw [sampleFrame_eq]
  split
  · exact hinv
  · exact debounce_rxInv _ _ _ (by rw [setLastObs_rx, countFrame_rx]; exact hinv)

theorem sampleFrame_inv {f : Frame} {s : State} (hinv : Inv s) : Inv (sampleFrame f s).1 := by
  obtain ⟨hmem, htx, hrx, hasm⟩ := hinv
  have hsame := sampleFrame_same f s
  exact ⟨hmem.congr hsame.mem, (sampleFrame_sameTransmit f s).txInv htx, sampleFrame_rxInv hrx,
    hsame.asm ▸ hasm⟩

theorem exec_event_inv {e : BitVec 3} {f : Frame} {s t : State} (hinv : Inv s)
    (h : exec (decodeEvent e f) s = .next t) : Inv t := by
  have htx := (exec_event_sameTransmit h).txInv hinv.2.1
  have ⟨hmem, _, hrx, hasm⟩ := hinv
  obtain rfl | ⟨hopening, rfl⟩ | ⟨cause, rfl⟩ | rfl | rfl := exec_event_cases h
  · exact hinv
  · refine ⟨hmem, htx, ⟨iff_of_true (hrx.1.mpr ?_) ?_, hrx.2⟩, hasm⟩
    · rw [hopening]
      decide
    · rintro ⟨⟩
  · exact ⟨hmem, htx, ⟨iff_of_false Bool.false_ne_true (not_not.mpr rfl), hrx.2⟩, hasm⟩
  · exact ⟨hmem, htx, hrx, hasm⟩
  · cases hbit : (sampleFrame f s).2 with
    | none => exact sampleFrame_inv hinv
    | some b => exact append_inv (sampleFrame_inv hinv)

/-! ### A step -/

theorem resetCycle_inv {c : Cycle} {s : State} (hinv : Inv s) : Inv (resetCycle c s) := by
  have htx : TxIdle Tx.reset := ⟨rfl, rfl, rfl, rfl⟩
  have hrx : RxInv Rx.reset := by unfold RxInv; decide
  have hasm : AsmInv Asm.reset := by unfold AsmInv; decide
  unfold resetCycle
  split <;> exact ⟨hinv.1, ⟨fun _ => htx, by rintro ⟨⟩⟩, hrx, hasm⟩

/-- The phases of a cycle without reset, one state after the other (60 R250). -/
theorem runCycle_eq_next {c : Cycle} (hrst : c.rst = false) {s t : State} :
    runCycle c s = .next t ↔ ∃ u v, busPhase c.bus s = .next u ∧ txPhase s.tx.busy u = .next v ∧
      exec (decodeEvent c.evt c.frame) v = .next t := by
  rw [runCycle_eq hrst, chain_eq_next]
  simp only [chain_eq_next]
  tauto

theorem runCycle_inv {c : Cycle} {s t : State} (hinv : Inv s) (h : runCycle c s = .next t) : Inv t := by
  cases hrst : c.rst with
  | true =>
    rw [runCycle, if_pos hrst] at h
    cases h
    exact resetCycle_inv hinv
  | false =>
    obtain ⟨u, v, hu, hv, ht⟩ := (runCycle_eq_next hrst).mp h
    exact exec_event_inv (txPhase_inv (busPhase_inv hinv hu) (busPhase_busy_of_busy · hu) hv) ht

theorem runCycle_sameSend {c : Cycle} {s t : State} (hrst : c.rst = false) (hbusy : s.tx.busy = true)
    (h : runCycle c s = .next t) : SameSend s t := by
  obtain ⟨u, v, hu, hv, ht⟩ := (runCycle_eq_next hrst).mp h
  exact (busPhase_sameSend hbusy hu).1.trans
    ((txPhase_sameSend hv).trans (exec_event_sameTransmit ht).sameSend)

/-- A wire symbol that runs is the appends of its bits (43 R201). -/
theorem runCode_wire_eq_next {bits : Bits} {s t : State} (h : runCode (.wire bits) s = .next t) :
    t = appendAll bits s := by
  unfold runCode at h
  cases hdecode : decode (.wire bits) with
  | error e =>
    rw [hdecode] at h
    cases h
  | ok i =>
    have hbits := (encode_wire_iff i bits).mp (encode_of_decodeSymbol hdecode)
    rw [hdecode] at h
    exact (Host.Outcome.next.inj ((exec_symbol hbits s).symm.trans h)).symm

/-- The cycles of a wire symbol: their TX phases, then its appends (log 5). -/
theorem runSymbol_eq_next {bits : Bits} {s t : State} (h : runSymbol bits s = .next t) :
    ∃ u, txPhases bits.length (noResponse s) = .next u ∧ t = appendAll bits u := by
  obtain ⟨u, hu, ht⟩ := chain_eq_next.mp h
  exact ⟨u, hu, runCode_wire_eq_next ht⟩

/-- A step runs a cycle or the bits of a symbol, from a state that has lost that entry (log 1). -/
theorem step_cases (s : State) :
    (∃ c rest, (s.inputs = .cycle c :: rest ∨ c = idleCycle) ∧
      step s = runCycle c { s with inputs := rest }) ∨
    ∃ bits rest, step s = runSymbol bits { s with inputs := rest } := by
  unfold step stepInputs
  cases hinputs : s.inputs with
  | nil => exact .inl ⟨idleCycle, [], .inr rfl, congrArg (runCycle idleCycle) (by rw [← hinputs])⟩
  | cons x rest =>
    cases x with
    | cycle c => exact .inl ⟨c, rest, .inl rfl, rfl⟩
    | symbol bits => exact .inr ⟨bits, rest, rfl⟩

/-- The invariant speaks of neither the script nor the flags and settings. -/
theorem Inv.congr {s t : State} (hinv : Inv s) (htx : t.tx = s.tx) (hrx : t.rx = s.rx)
    (hasm : t.asm = s.asm) (hmem : t.mem = s.mem) (hclk : t.clkIndex = s.clkIndex) : Inv t := by
  have hsame : SameSend s t := .of_eq htx hmem hclk
  refine ⟨hinv.1.congr hmem, ?_, hrx ▸ hinv.2.2.1, hasm ▸ hinv.2.2.2⟩
  unfold TxInv
  rw [htx]
  exact ⟨hinv.2.1.1, fun hbusy => (hinv.2.1.2 hbusy).of_sameSend hsame htx⟩

/-! ### The statements -/

/-- Settles O53: each phase of the step's cycles keeps the invariant. -/
theorem stepKeepsInv : Obligations.StepKeepsInv := by
  intro s t hinv h
  obtain ⟨c, rest, -, e⟩ | ⟨bits, rest, e⟩ := step_cases s <;> rw [e] at h
  · have hinv' : Inv { s with inputs := rest } := hinv.congr rfl rfl rfl rfl rfl
    exact runCycle_inv hinv' h
  · obtain ⟨u, hu, rfl⟩ := runSymbol_eq_next h
    have hinv' : Inv (noResponse { s with inputs := rest }) := hinv.congr rfl rfl rfl rfl rfl
    exact appendAll_inv (txPhases_inv hinv' hu)

/-- Settles O59: no phase changes what the frame is read from, so its bits are the same. -/
theorem runningSendIsFixed : Obligations.RunningSendIsFixed := by
  intro s t hinv hbusy _ h hcycles
  have hsame : SameSend s t := by
    obtain ⟨c, rest, hc, e⟩ | ⟨bits, rest, e⟩ := step_cases s <;> rw [e] at h
    · have hrst : c.rst = false := by
        obtain hc | rfl := hc
        · exact hcycles c rest hc
        · rfl
      exact .trans (t := { s with inputs := rest }) (.of_eq rfl rfl rfl)
        (runCycle_sameSend hrst hbusy h)
    · obtain ⟨u, hu, rfl⟩ := runSymbol_eq_next h
      exact .trans (t := noResponse { s with inputs := rest }) (.of_eq rfl rfl rfl)
        ((txPhases_sameSend hu).trans (appendAll_sameTransmit bits u).sameSend)
  exact ⟨hsame.clkIndex, hsame.bitdur, hsame.len, hsame.total,
    fun i _ => hsame.sendBit (hinv.2.1.2 hbusy).len i⟩

end Sys2Proof.Machine
end

section
/-!
One TX phase (41 R149 to R152), outcome by outcome, and the four outcomes of a whole cycle without reset
while a send runs, whatever access and event the cycle presents.
-/

namespace Sys2Proof.Machine

/-! ### The TX phase -/

theorem txPhase_idle (s : State) : txPhase false s = .next s := rfl

theorem txPhase_count {s : State} (htimer : s.tx.timer ≠ 0#32) :
    txPhase true s = .next { s with tx := { s.tx with timer := s.tx.timer - 1#32 } } := by
  rw [txPhase, if_pos rfl, if_neg htimer]

theorem txPhase_periodEnd {s : State} (htimer : s.tx.timer = 0#32) : txPhase true s = periodEnd s := by
  rw [txPhase, if_pos rfl, if_pos htimer]

theorem txPhase_startGuard {s : State} (htimer : s.tx.timer = 0#32) (hphase : s.tx.phase = .bits)
    (hend : s.tx.cancel = true ∨ s.tx.bitIndex.toNat + 1 = s.tx.total.toNat) :
    txPhase true s = .next (startGuard s) := by
  rw [txPhase_periodEnd htimer, periodEnd, hphase]
  exact if_pos (Bool.or_eq_true_iff.mpr (hend.imp_right (onLastBit_iff _).mpr))

theorem txPhase_startNextBit {s : State} (htimer : s.tx.timer = 0#32) (hphase : s.tx.phase = .bits)
    (hcancel : s.tx.cancel = false) (hnext : s.tx.bitIndex.toNat + 1 < s.tx.total.toNat)
    (hlen : s.tx.len.toNat ≤ 2000) (htotal : s.tx.total.toNat = 16 + 16 * s.tx.len.toNat) :
    txPhase true s = .next (startNextBit s) := by
  have hlast : onLastBit s.tx = false := by
    rw [← Bool.not_eq_true, onLastBit_iff]
    omega
  rw [txPhase_periodEnd htimer, periodEnd, hphase]
  simp only [hcancel, hlast, (nextBitInFrame_iff _).mpr ⟨hlen, htotal, hnext⟩, Bool.or_self,
    Bool.false_eq_true, if_false, if_true]

theorem txPhase_endSend {s : State} (htimer : s.tx.timer = 0#32) (hphase : s.tx.phase = .guard) :
    txPhase true s = .next (endSend s) := by
  rw [txPhase_periodEnd htimer, periodEnd, hphase]

/-- The TX phase of a running send never stops the block (60 R243). -/
theorem txPhase_next {s : State} (hrun : TxRunning s) : ∃ t, txPhase true s = .next t := by
  by_cases htimer : s.tx.timer = 0#32
  swap
  · exact ⟨_, txPhase_count htimer⟩
  cases hphase : s.tx.phase with
  | guard => exact ⟨_, txPhase_endSend htimer hphase⟩
  | bits =>
    by_cases hend : s.tx.cancel = true ∨ s.tx.bitIndex.toNat + 1 = s.tx.total.toNat
    · exact ⟨_, txPhase_startGuard htimer hphase hend⟩
    · have hindex := hrun.index
      rw [not_or, Bool.not_eq_true] at hend
      exact ⟨_, txPhase_startNextBit htimer hphase hend.1 (by omega) hrun.len hrun.total⟩

/-! ### The script's next cycle -/

/-- The cycle a script presents next; with none left, or a symbol, nothing is presented (log 1). -/
def nextCycle : List Input → Cycle
  | .cycle c :: _ => c
  | _ => idleCycle

theorem nextCycle_rst {script : List Input} (h : CyclesOnly script) : (nextCycle script).rst = false := by
  cases script with
  | nil => rfl
  | cons x rest =>
    obtain ⟨c, rfl, hrst⟩ := h x List.mem_cons_self
    exact hrst

theorem CyclesOnly.drop {script : List Input} (h : CyclesOnly script) (n : Nat) :
    CyclesOnly (script.drop n) := fun x hx => h x (List.mem_of_mem_drop hx)

theorem step_eq_runCycle {s : State} (h : CyclesOnly s.inputs) :
    step s = runCycle (nextCycle s.inputs) { s with inputs := s.inputs.tail } := by
  unfold step stepInputs
  cases hinputs : s.inputs with
  | nil => exact congrArg (runCycle idleCycle) (by rw [List.tail_nil, ← hinputs])
  | cons x rest =>
    obtain ⟨c, rfl, -⟩ := h x (hinputs ▸ List.mem_cons_self)
    rfl

theorem not_writesCmd_idleCycle (w : Word) : ¬ writesCmd idleCycle w := by
  rintro ⟨a, ha, -⟩
  cases ha

/-- A script that never writes a word to CMD in its first `n` cycles does not in cycle `k < n`. -/
theorem NeverCommands.not_writesCmd {w : Word} {script : List Input} {n k : Nat}
    (h : NeverCommands w (script.take n)) (hk : k < n) : ¬ writesCmd (nextCycle (script.drop k)) w := by
  unfold nextCycle
  split
  next c rest hdrop =>
    refine h c (List.mem_of_mem_drop (i := k) ?_)
    obtain ⟨m, hm⟩ : ∃ m, n - k = m + 1 := ⟨n - k - 1, by omega⟩
    rw [List.drop_take, hdrop, hm, List.take_succ_cons]
    exact List.mem_cons_self
  next => exact not_writesCmd_idleCycle w

/-! ### A cycle of a running send -/

/-- The send is cancelled once this cycle's access has been answered (41 R146). -/
def Stops (s : State) : Prop :=
  s.tx.cancel = true ∨ writesCmd (nextCycle s.inputs) 2#32

theorem busPhase_inputs {c : Cycle} {s t : State} (h : busPhase c.bus s = .next t) :
    t.inputs = s.inputs := by
  obtain hquiet | ⟨w, -, hcmd⟩ | ⟨-, d, l, rfl⟩ | ⟨-, k, w, -, rfl⟩ := busPhase_inversion h
  · exact hquiet.inputs
  · exact (exec_command_keeps hcmd).inputs
  · rfl
  · rfl

theorem txSend_busy {s : State} (hbusy : s.tx.busy = true) :
    txSend s = cmdResult 0x01#8 .ignoredBusy s := by
  rw [txSend, if_pos hbusy]

theorem busPhase_noTxIrqSet {c : Cycle} {s t : State} (hbusy : s.tx.busy = true)
    (h : busPhase c.bus s = .next t) : NoTxIrqSet s t := by
  obtain hquiet | ⟨w, -, hcmd⟩ | ⟨hidle, -⟩ | ⟨hidle, -⟩ := busPhase_inversion h
  · exact hquiet.irq
  · obtain ⟨-, rfl⟩ | ⟨-, rfl⟩ | ⟨-, hirq⟩ := exec_command_tx hcmd
    · rw [txSend_busy (by exact hbusy)]
      exact fun _ _ => id
    · rw [if_pos (by exact hbusy)]
      exact fun _ _ => id
    · exact hirq
  · exact absurd hidle (by simp [hbusy])
  · exact absurd hidle (by simp [hbusy])

theorem busPhase_cancel_iff {c : Cycle} {s t : State} (hbusy : s.tx.busy = true)
    (h : busPhase c.bus s = .next t) : t.tx.cancel = true ↔ s.tx.cancel = true ∨ writesCmd c 2#32 := by
  constructor
  · obtain ⟨-, -, -, htx | ⟨-, hstop⟩⟩ := busPhase_busy hbusy h
    · rw [htx]
      exact .inl
    · exact fun _ => .inr hstop
  · rintro (hcancel | ⟨a, ha, hw, hr, hword⟩)
    · obtain ⟨-, -, -, htx | ⟨htx, -⟩⟩ := busPhase_busy hbusy h <;> rw [htx]
      exact hcancel
    · rw [ha, busPhase_write hr hw, hword] at h
      cases h
      rw [if_pos (by exact hbusy)]
      rfl

/-- What every cycle of a running send does, whatever the cycle presents. -/
structure SendCycle (s t : State) : Prop where
  next : step s = .next t
  same : SameSend s t
  inputs : t.inputs = s.inputs.tail
  txInv : TxInv t

/-- The state that the TX phase of a running send's cycle takes from the bus phase. -/
structure AfterBus (s u : State) : Prop where
  running : TxRunning u
  same : SameSend s u
  tx : u.tx = { s.tx with cancel := u.tx.cancel }
  cancel : u.tx.cancel = true ↔ Stops s
  irq : NoTxIrqSet s u

/-- A cycle of a running send, phase by phase. -/
theorem step_running {s : State} (hrun : TxRunning s) (hbusy : s.tx.busy = true)
    (hcycles : CyclesOnly s.inputs) :
    ∃ u v t, AfterBus s u ∧ txPhase true u = .next v ∧ SameTransmit v t ∧ SendCycle s t := by
  have hscript : SameSend s { s with inputs := s.inputs.tail } := .of_eq rfl rfl rfl
  obtain ⟨u, hu⟩ := busPhase_next (nextCycle s.inputs).bus { s with inputs := s.inputs.tail }
  obtain ⟨hsame, htx⟩ := busPhase_sameSend (by exact hbusy) hu
  have hrun' : TxRunning u := hrun.of_sameSend (hscript.trans hsame) htx
  have hcancel := busPhase_cancel_iff (by exact hbusy) hu
  have hirq := busPhase_noTxIrqSet (by exact hbusy) hu
  obtain ⟨v, hv⟩ := txPhase_next hrun'
  obtain ⟨t, ht⟩ := exec_next (decodeEvent (nextCycle s.inputs).evt (nextCycle s.inputs).frame) v
  have hrx := exec_event_sameTransmit ht
  have hbusy' : u.tx.busy = true := by rw [htx]; exact hbusy
  refine ⟨u, v, t, ⟨hrun', hscript.trans hsame, htx, hcancel, hirq⟩, hv,
    hrx, ?_, hscript.trans (hsame.trans ((txPhase_sameSend hv).trans hrx.sameSend)), ?_, ?_⟩
  · rw [step_eq_runCycle hcycles]
    exact (runCycle_eq_next (nextCycle_rst hcycles)).mpr ⟨u, v, hu, by rw [hbusy]; exact hv, ht⟩
  · rw [hrx.inputs, (txPhase_same hv).inputs, busPhase_inputs hu]
  · exact hrx.txInv (txPhase_txInv (.of_running hbusy' hrun') (fun _ => hbusy') hv)

theorem AfterBus.timerStart {s u : State} (h : AfterBus s u) : timerStart u = timerStart s := by
  unfold Machine.timerStart
  rw [h.same.bitPeriod]

/-- The cycle counts the period down. -/
theorem step_counts {s : State} (hrun : TxRunning s) (hbusy : s.tx.busy = true)
    (hcycles : CyclesOnly s.inputs) (htimer : s.tx.timer ≠ 0#32) :
    ∃ t, SendCycle s t ∧ NoTxIrqSet s t ∧ (t.tx.cancel = true ↔ Stops s) ∧
      t.tx = { s.tx with timer := s.tx.timer - 1#32, cancel := t.tx.cancel } := by
  obtain ⟨u, v, t, hbus, hv, hrx, hcycle⟩ := step_running hrun hbusy hcycles
  have htx := hbus.tx
  rw [txPhase_count (by rw [htx]; exact htimer)] at hv
  cases hv
  refine ⟨t, hcycle, fun b hb hset => hbus.irq b hb ((hrx.irq b hb).symm.trans hset),
    by rw [hrx.tx]; exact hbus.cancel, ?_⟩
  rw [hrx.tx, htx]

/-- The bit's period ends and the guard starts (41 R151, first branch). -/
theorem step_startsGuard {s : State} (hrun : TxRunning s) (hbusy : s.tx.busy = true)
    (hcycles : CyclesOnly s.inputs) (htimer : s.tx.timer = 0#32) (hphase : s.tx.phase = .bits)
    (hend : Stops s ∨ s.tx.bitIndex.toNat + 1 = s.tx.total.toNat) :
    ∃ t, SendCycle s t ∧ NoTxIrqSet s t ∧ (t.tx.cancel = true ↔ Stops s) ∧
      t.tx = { s.tx with
        lastEnd := if s.tx.bitIndex.toNat + 1 = s.tx.total.toNat then .completed else .cancelled
        phase := .guard, level := false, timer := timerStart s, cancel := t.tx.cancel } := by
  obtain ⟨u, v, t, hbus, hv, hrx, hcycle⟩ := step_running hrun hbusy hcycles
  have htx := hbus.tx
  rw [txPhase_startGuard (by rw [htx]; exact htimer) (by rw [htx]; exact hphase)
    (hend.imp hbus.cancel.mpr fun h => by rw [htx]; exact h)] at hv
  cases hv
  refine ⟨t, hcycle, fun b hb hset => hbus.irq b hb ((hrx.irq b hb).symm.trans hset),
    by rw [hrx.tx]; exact hbus.cancel, ?_⟩
  rw [hrx.tx]
  simp only [startGuard, hbus.timerStart, onLastBit_iff]
  rw [htx]

/-- The bit's period ends and the next bit starts (41 R151, second branch). -/
theorem step_startsNextBit {s : State} (hrun : TxRunning s) (hbusy : s.tx.busy = true)
    (hcycles : CyclesOnly s.inputs) (htimer : s.tx.timer = 0#32) (hphase : s.tx.phase = .bits)
    (hgoes : ¬ Stops s) (hnext : s.tx.bitIndex.toNat + 1 < s.tx.total.toNat) :
    ∃ t, SendCycle s t ∧ t.irqStatus.getLsbD 0 = true ∧
      (t.irqStatus.getLsbD 1 = true → s.irqStatus.getLsbD 1 = true) ∧
      t.tx.busy = true ∧ t.tx.phase = .bits ∧ t.tx.cancel = false ∧
      t.tx.bitIndex.toNat = s.tx.bitIndex.toNat + 1 ∧ t.tx.timer = timerStart s := by
  obtain ⟨u, v, t, hbus, hv, hrx, hcycle⟩ := step_running hrun hbusy hcycles
  have htx := hbus.tx
  have hcancel : u.tx.cancel = false := by
    rw [← Bool.not_eq_true, hbus.cancel]
    exact hgoes
  have htotal := hbus.running.total
  have hlen := hbus.running.len
  have hindex : u.tx.bitIndex = s.tx.bitIndex := by rw [htx]
  have hnext' : u.tx.bitIndex.toNat + 1 < u.tx.total.toNat := by rw [htx]; exact hnext
  rw [txPhase_startNextBit (by rw [htx]; exact htimer) (by rw [htx]; exact hphase) hcancel hnext' hlen
    htotal] at hv
  cases hv
  refine ⟨t, hcycle, ?_, fun hset => hbus.irq 1 (by decide) ?_, ?_, ?_, ?_, ?_, ?_⟩
  · rw [hrx.irq 0 (by decide), startNextBit_irqStatus, BitVec.getLsbD_or]
    exact Bool.or_true _
  · rw [hrx.irq 1 (by decide), startNextBit_irqStatus, BitVec.getLsbD_or] at hset
    exact (Bool.or_false _).symm.trans hset
  all_goals rw [hrx.tx]
  · exact (congrArg Tx.busy htx).trans hbusy
  · exact (congrArg Tx.phase htx).trans hphase
  · exact hcancel
  · simp only [startNextBit, setIrq_tx, BitVec.toNat_ofNat]
    rw [hindex] at hnext' ⊢
    omega
  · exact hbus.timerStart

/-- The guard ends and the send with it (41 R152). -/
theorem step_endsSend {s : State} (hrun : TxRunning s) (hbusy : s.tx.busy = true)
    (hcycles : CyclesOnly s.inputs) (htimer : s.tx.timer = 0#32) (hphase : s.tx.phase = .guard) :
    ∃ t, SendCycle s t ∧ t.irqStatus.getLsbD 1 = true ∧
      (t.irqStatus.getLsbD 0 = true → s.irqStatus.getLsbD 0 = true) ∧
      t.tx = { s.tx with
        busy := false, phase := .bits, cancel := false, acquire := false, level := false } := by
  obtain ⟨u, v, t, hbus, hv, hrx, hcycle⟩ := step_running hrun hbusy hcycles
  have htx := hbus.tx
  rw [txPhase_endSend (by rw [htx]; exact htimer) (by rw [htx]; exact hphase)] at hv
  cases hv
  refine ⟨t, hcycle, ?_, fun hset => hbus.irq 0 (by decide) ?_, ?_⟩
  · rw [hrx.irq 1 (by decide), endSend_irqStatus, BitVec.getLsbD_or]
    exact Bool.or_true _
  · rw [hrx.irq 0 (by decide), endSend_irqStatus, BitVec.getLsbD_or] at hset
    exact (Bool.or_false _).symm.trans hset
  · rw [hrx.tx]
    simp only [endSend, setIrq_tx]
    rw [htx]

/-- A cycle in Idle without a TX_SEND sets TX_BITDUR and TX_LEN at most. -/
theorem step_idle {s : State} (hidle : s.tx.busy = false) (hcycles : CyclesOnly s.inputs)
    (hsend : ¬ writesCmd (nextCycle s.inputs) 1#32) :
    ∃ t, step s = .next t ∧ t.inputs = s.inputs.tail ∧
      ∃ d l, t.tx = { s.tx with bitdur := d, len := l } := by
  obtain ⟨u, hu⟩ := busPhase_next (nextCycle s.inputs).bus { s with inputs := s.inputs.tail }
  obtain ⟨t, ht⟩ := exec_next (decodeEvent (nextCycle s.inputs).evt (nextCycle s.inputs).frame) u
  have hrx := exec_event_sameTransmit ht
  refine ⟨t, ?_, hrx.inputs.trans (busPhase_inputs hu), ?_⟩
  · rw [step_eq_runCycle hcycles]
    exact (runCycle_eq_next (nextCycle_rst hcycles)).mpr ⟨u, u, hu, by rw [hidle]; rfl, ht⟩
  · rw [hrx.tx]
    exact (busPhase_idle (by exact hidle) hu).resolve_right fun h => hsend h.1

end Sys2Proof.Machine
end

section
/-!
The exact timing of a send (41 R153, R156): the cycles of a period are counted down one by one, a send that
is not cancelled goes through its periods on schedule, and a cancelled one ends with the guard after its bit.
-/

namespace Sys2Proof.Machine

/-! ### Runs -/

/-- `k` steps lead from `s` to `t`. -/
def Reaches (k : Nat) (s t : State) : Prop := Host.Core.run Sys2Proof.core k s = .next t

theorem Reaches.refl (s : State) : Reaches 0 s s := rfl

theorem run_succ_eq_next {M : Host.Core} {k : Nat} {s u : M.State} :
    M.run (k + 1) s = .next u ↔ ∃ t, M.step s = .next t ∧ M.run k t = .next u := by
  rw [Host.Core.run]
  cases M.step s <;> simp

theorem reaches_succ_iff {k : Nat} {s u : State} :
    Reaches (k + 1) s u ↔ ∃ t, step s = .next t ∧ Reaches k t u :=
  run_succ_eq_next (M := Sys2Proof.core)

theorem Reaches.head {k : Nat} {s t u : State} (hstep : step s = .next t) (h : Reaches k t u) :
    Reaches (k + 1) s u := reaches_succ_iff.mpr ⟨t, hstep, h⟩

theorem Reaches.trans {j k : Nat} {s t u : State} (h : Reaches j s t) (h' : Reaches k t u) :
    Reaches (j + k) s u := by
  induction j generalizing s with
  | zero =>
    cases h
    rwa [Nat.zero_add]
  | succ j ih =>
    obtain ⟨v, hv, ht⟩ := reaches_succ_iff.mp h
    rw [Nat.succ_add]
    exact (ih ht).head hv

theorem Reaches.tail {k : Nat} {s t u : State} (h : Reaches k s t) (hstep : step t = .next u) :
    Reaches (k + 1) s u := h.trans (Reaches.head hstep (.refl u))

/-! ### Idle cycles -/

/-- Without a TX_SEND an idle sequencer stays as it is. -/
theorem idle_run {k : Nat} {s : State} (hidle : s.tx.busy = false) (hcycles : CyclesOnly s.inputs)
    (hsend : ∀ j, j < k → ¬ writesCmd (nextCycle (s.inputs.drop j)) 1#32) :
    ∃ t, Reaches k s t ∧ ∃ d l, t.tx = { s.tx with bitdur := d, len := l } := by
  induction k generalizing s with
  | zero => exact ⟨s, .refl s, _, _, rfl⟩
  | succ k ih =>
    obtain ⟨t, hstep, hinputs, d, l, htx⟩ := step_idle hidle hcycles (hsend 0 k.succ_pos)
    rw [← List.drop_one] at hinputs
    obtain ⟨u, hrun, d', l', hu⟩ := ih (by rw [htx]; exact hidle) (hinputs ▸ hcycles.drop 1)
      fun j hj => by
        rw [hinputs, List.drop_drop, Nat.add_comm]
        exact hsend (j + 1) (Nat.succ_lt_succ hj)
    exact ⟨u, hrun.head hstep, d', l', by rw [hu, htx]⟩

/-! ### The cycles of one period -/

/-- `k` cycles of a period, the same all along but for the timer and the cancel flag. -/
structure Counted (k : Nat) (s t : State) : Prop where
  reaches : Reaches k s t
  same : SameSend s t
  running : TxRunning t
  inputs : t.inputs = s.inputs.drop k
  tx : t.tx = { s.tx with timer := t.tx.timer, cancel := t.tx.cancel }
  timer : t.tx.timer.toNat + k = s.tx.timer.toNat
  stops : Stops s → Stops t

/-- A period with `timer` cycles to come counts them all (41 R150). -/
theorem counted_of_le_timer {k : Nat} {s : State} (hrun : TxRunning s) (hbusy : s.tx.busy = true)
    (hcycles : CyclesOnly s.inputs) (hk : k ≤ s.tx.timer.toNat) : ∃ t, Counted k s t := by
  induction k generalizing s with
  | zero => exact ⟨s, .refl s, .refl s, hrun, rfl, rfl, rfl, id⟩
  | succ k ih =>
    have htimer : s.tx.timer ≠ 0#32 := by
      rintro h
      rw [h] at hk
      exact absurd hk (Nat.not_succ_le_zero k)
    obtain ⟨t, hcycle, -, hcancel, htx⟩ := step_counts hrun hbusy hcycles htimer
    have hbusy' : t.tx.busy = true := by rw [htx]; exact hbusy
    have htimer' : t.tx.timer.toNat + 1 = s.tx.timer.toNat := by
      rw [htx]
      simp only
      bv_omega
    have hinputs := hcycle.inputs
    rw [← List.drop_one] at hinputs
    obtain ⟨u, hu⟩ := ih (hcycle.txInv.2 hbusy') hbusy' (hinputs ▸ hcycles.drop 1) (by omega)
    refine ⟨u, hu.reaches.head hcycle.next, hcycle.same.trans hu.same, hu.running, ?_, ?_, ?_, ?_⟩
    · rw [hu.inputs, hinputs, List.drop_drop, Nat.add_comm]
    · rw [hu.tx, htx]
    · have := hu.timer
      omega
    · exact fun hstop => hu.stops (.inl (hcancel.mpr hstop))

theorem Counted.busy {k : Nat} {s t : State} (h : Counted k s t) (hbusy : s.tx.busy = true) :
    t.tx.busy = true := by rw [h.tx]; exact hbusy

theorem Counted.cyclesOnly {k : Nat} {s t : State} (h : Counted k s t) (hcycles : CyclesOnly s.inputs) :
    CyclesOnly t.inputs := h.inputs ▸ hcycles.drop k

theorem Counted.timer_eq_zero {s t : State} (h : Counted s.tx.timer.toNat s t) : t.tx.timer = 0#32 := by
  have := h.timer
  exact BitVec.eq_of_toNat_eq (by simp only [BitVec.toNat_ofNat]; omega)

/-! ### The guard -/

/-- An idle sequencer with the LAST_END its last send left. -/
structure SendEnded (lastEnd : TxEnd) (t : State) : Prop where
  busy : t.tx.busy = false
  acquire : t.tx.acquire = false
  level : t.tx.level = false
  lastEnd : t.tx.lastEnd = lastEnd

/-- The guard's last cycle comes when its timer has run out, and ends the send (41 R152). -/
theorem guard_ends {s : State} (hrun : TxRunning s) (hbusy : s.tx.busy = true)
    (hcycles : CyclesOnly s.inputs) (hphase : s.tx.phase = .guard) :
    ∃ t, Reaches (s.tx.timer.toNat + 1) s t ∧ t.inputs = s.inputs.drop (s.tx.timer.toNat + 1) ∧
      t.irqStatus.getLsbD 1 = true ∧ SendEnded s.tx.lastEnd t := by
  obtain ⟨u, hu⟩ := counted_of_le_timer hrun hbusy hcycles le_rfl
  obtain ⟨t, hcycle, hdone, -, htx⟩ := step_endsSend hu.running (hu.busy hbusy) (hu.cyclesOnly hcycles)
    hu.timer_eq_zero (by rw [hu.tx]; exact hphase)
  refine ⟨t, hu.reaches.tail hcycle.next, ?_, hdone, ?_⟩
  · rw [hcycle.inputs, hu.inputs, List.tail_drop]
  · constructor <;> rw [htx]
    rw [hu.tx]

/-- A send that has ended stays ended until another TX_SEND is presented. -/
theorem SendEnded.run {lastEnd : TxEnd} {k : Nat} {s : State} (h : SendEnded lastEnd s)
    (hcycles : CyclesOnly s.inputs)
    (hsend : ∀ j, j < k → ¬ writesCmd (nextCycle (s.inputs.drop j)) 1#32) :
    ∃ t, Reaches k s t ∧ SendEnded lastEnd t := by
  obtain ⟨t, hrun, d, l, htx⟩ := idle_run h.busy hcycles hsend
  refine ⟨t, hrun, ?_⟩
  constructor <;> rw [htx]
  · exact h.busy
  · exact h.acquire
  · exact h.level
  · exact h.lastEnd

end Sys2Proof.Machine
end

section
/-!
A send that a TX_STOP meets (41 R156): its bit is counted to the end, then its guard, and then it is idle.
-/

namespace Sys2Proof.Machine

theorem writesCmd_cmdCycle (w : Word) (e : BitVec 3) (f : Frame) : writesCmd (cmdCycle w e f) w :=
  ⟨_, rfl, rfl, accessedReg_at rfl rfl, rfl⟩

theorem cyclesOnly_cmdCycle {script rest : List Input} {w : Word} {e : BitVec 3} {f : Frame}
    (hscript : script = .cycle (cmdCycle w e f) :: rest) (h : CyclesOnly rest) : CyclesOnly script := by
  rw [hscript]
  exact List.forall_mem_cons.mpr ⟨⟨_, rfl, rfl⟩, h⟩

/-- The guard's cycles pass and the send has ended, until another TX_SEND is presented. -/
theorem guard_then_idle {k : Nat} {s : State} (hrun : TxRunning s) (hbusy : s.tx.busy = true)
    (hcycles : CyclesOnly s.inputs) (hphase : s.tx.phase = .guard) (hk : s.tx.timer.toNat + 1 ≤ k)
    (hsend : NeverCommands 1#32 ((s.inputs.take k).drop (s.tx.timer.toNat + 1))) :
    ∃ t, Reaches k s t ∧ SendEnded s.tx.lastEnd t ∧
      (k = s.tx.timer.toNat + 1 → t.irqStatus.getLsbD 1 = true) := by
  obtain ⟨u, hu, hinputs, hdone, hended⟩ := guard_ends hrun hbusy hcycles hphase
  rw [List.drop_take, ← hinputs] at hsend
  obtain ⟨j, rfl⟩ := Nat.exists_eq_add_of_le hk
  rw [Nat.add_sub_cancel_left] at hsend
  cases j with
  | zero => exact ⟨u, hu, hended, fun _ => hdone⟩
  | succ j =>
    obtain ⟨t, ht, hended'⟩ := hended.run (hinputs ▸ hcycles.drop _) fun i => hsend.not_writesCmd
    exact ⟨t, hu.trans ht, hended', fun h => by omega⟩

/-- A bit that is cancelled, or the frame's last, is counted to its end; then the guard starts with a whole
period (41 R151, first branch). -/
theorem bit_then_guard {s : State} (hrun : TxRunning s) (hbusy : s.tx.busy = true)
    (hcycles : CyclesOnly s.inputs) (hphase : s.tx.phase = .bits) (hstop : Stops s) :
    ∃ g, Reaches (s.tx.timer.toNat + 1) s g ∧ TxRunning g ∧
      g.inputs = s.inputs.drop (s.tx.timer.toNat + 1) ∧ g.tx.timer.toNat + 1 = bitPeriod s ∧
      g.tx = { s.tx with
        lastEnd := if s.tx.bitIndex.toNat + 1 = s.tx.total.toNat then .completed else .cancelled
        phase := .guard, level := false, timer := g.tx.timer, cancel := g.tx.cancel } := by
  obtain ⟨u, hu⟩ := counted_of_le_timer hrun hbusy hcycles le_rfl
  obtain ⟨g, hcycle, -, -, htx⟩ := step_startsGuard hu.running (hu.busy hbusy) (hu.cyclesOnly hcycles)
    hu.timer_eq_zero (by rw [hu.tx]; exact hphase) (.inl (hu.stops hstop))
  refine ⟨g, hu.reaches.tail hcycle.next, hcycle.txInv.2 (by rw [htx]; exact hu.busy hbusy), ?_, ?_, ?_⟩
  · rw [hcycle.inputs, hu.inputs, List.tail_drop]
  · have hpos := bitPeriod_pos hu.running.bitdur.1
    rw [htx, timerStart_toNat hu.running.bitdur.2, ← hu.same.bitPeriod]
    omega
  · rw [htx, hu.tx]

/-- Settles O15: the TX_STOP's own cycle cancels the send before its TX phase, so the bit's cycles are
followed by the guard's, whatever else those cycles present. -/
theorem cancelledSendTiming : Obligations.CancelledSendTiming := by
  intro s e f rest hscript hrest hbusy hrun R N
  have hcycles := cyclesOnly_cmdCycle hscript hrest
  have hstop : Stops s := .inr (by rw [hscript]; exact writesCmd_cmdCycle _ e f)
  constructor
  · intro hphase
    obtain ⟨g, hg, hgrun, hinputs, htimer, htx⟩ := bit_then_guard hrun hbusy hcycles hphase hstop
    have hgbusy : g.tx.busy = true := by rw [htx]; exact hbusy
    have hgphase : g.tx.phase = .guard := by rw [htx]
    have hgcycles : CyclesOnly g.inputs := hinputs ▸ hcycles.drop _
    constructor
    · intro k hk
      rcases Nat.lt_or_ge k R with hlt | hge
      · obtain ⟨t, ht⟩ := counted_of_le_timer hrun hbusy hcycles (Nat.le_of_lt_succ hlt)
        refine ⟨t, ht.reaches, ht.busy hbusy, by rw [ht.tx], fun _ => ?_, fun h => absurd h (by omega)⟩
        rw [ht.tx]
        exact ⟨hphase, rfl⟩
      · obtain ⟨j, rfl⟩ := Nat.exists_eq_add_of_le hge
        have hj : j ≤ g.tx.timer.toNat := by omega
        obtain ⟨t, ht⟩ := counted_of_le_timer hgrun hgbusy hgcycles hj
        refine ⟨t, hg.trans ht.reaches, ht.busy hgbusy, by rw [ht.tx, htx], fun h => absurd h (by omega),
          fun _ => ?_⟩
        rw [ht.tx, htx]
        exact ⟨rfl, rfl⟩
    · intro k hk hsend
      obtain ⟨j, rfl⟩ := Nat.exists_eq_add_of_le (Nat.le_of_add_right_le hk)
      have hsend' : NeverCommands 1#32 ((g.inputs.take j).drop (g.tx.timer.toNat + 1)) := by
        rwa [hinputs, htimer, ← Nat.add_sub_cancel_left (n := R) (m := j), ← List.drop_take,
          List.drop_drop]
      obtain ⟨t, ht, hended, hdone⟩ := guard_then_idle hgrun hgbusy hgcycles hgphase (by omega) hsend'
      refine ⟨t, hg.trans ht, hended.busy, hended.acquire, hended.level, fun h => hdone (by omega), ?_⟩
      rw [hended.lastEnd, htx]
  · intro hphase
    constructor
    · intro k hk
      obtain ⟨t, ht⟩ := counted_of_le_timer hrun hbusy hcycles (Nat.le_of_lt_succ hk)
      refine ⟨t, ht.reaches, ht.busy hbusy, ?_⟩
      rw [ht.tx]
      exact ⟨hrun.acquired, hphase, hrun.guardLow hphase⟩
    · intro k hk hsend
      obtain ⟨t, ht, hended, hdone⟩ := guard_then_idle hrun hbusy hcycles hphase hk hsend
      exact ⟨t, ht, hended.busy, hended.acquire, hended.level, hdone, hended.lastEnd⟩

end Sys2Proof.Machine
end

section
/-!
A send that is not cancelled (41 R153): bit after bit and then the guard, each period starts when the one
before it has been counted out, so the cycle's number tells the period.
-/

namespace Sys2Proof.Machine

/-! ### The start -/

theorem SendStarted.of_sameTransmit {s t : State} (hstart : SendStarted s) (h : SameTransmit s t) :
    SendStarted t := by
  have htimer : timerStart t = timerStart s := by
    unfold timerStart
    rw [h.sameSend.bitPeriod]
  constructor
  · exact hstart.running.of_sameSend h.sameSend h.tx
  · rw [h.tx, hstart.busy]
  · rw [h.tx, hstart.phase]
  · rw [h.tx, hstart.cancel]
  · rw [h.tx, hstart.bitIndex]
  · rw [h.tx, htimer, hstart.timer]
  · rw [h.irq 0 (by decide), hstart.irq]

/-- A cycle that makes an idle sequencer busy has started a send (41 R140). -/
theorem step_starts {s t : State} (hidle : s.tx.busy = false) (hcycles : CyclesOnly s.inputs)
    (hstep : step s = .next t) (hbusy : t.tx.busy = true) :
    SendStarted t ∧ t.inputs = s.inputs.tail := by
  rw [step_eq_runCycle hcycles] at hstep
  obtain ⟨u, v, hu, hv, ht⟩ := (runCycle_eq_next (nextCycle_rst hcycles)).mp hstep
  rw [show ({ s with inputs := s.inputs.tail } : State).tx.busy = false from hidle, txPhase_idle] at hv
  cases hv
  have hrx := exec_event_sameTransmit ht
  obtain ⟨d, l, htx⟩ | ⟨-, hstart⟩ := busPhase_idle (by exact hidle) hu
  · rw [hrx.tx, htx] at hbusy
    exact absurd (hbusy.symm.trans hidle) (by decide)
  · exact ⟨hstart.of_sameTransmit hrx, hrx.inputs.trans (busPhase_inputs hu)⟩

/-! ### The schedule -/

/-- The number of the period a send is in: its bit, or after the last bit the guard. -/
def periodIndex (t : Tx) : Nat :=
  match t.phase with
  | .bits => t.bitIndex.toNat
  | .guard => t.total.toNat

/-- `t` is the state `k` cycles after the first, `s`, of a send that goes on uncancelled. -/
structure OnSchedule (s : State) (k : Nat) (t : State) : Prop where
  reaches : Reaches k s t
  same : SameSend s t
  running : TxRunning t
  busy : t.tx.busy = true
  cancel : t.tx.cancel = false
  inputs : t.inputs = s.inputs.drop k
  clock : k + t.tx.timer.toNat + 1 = (periodIndex t.tx + 1) * bitPeriod s
  completed : t.tx.phase = .guard → t.tx.lastEnd = .completed

section Schedule

variable {s t : State} {k : Nat}

theorem SendStarted.onSchedule (h : SendStarted s) : OnSchedule s 0 s := by
  refine ⟨.refl s, .refl s, h.running, h.busy, h.cancel, rfl, ?_, fun hguard => ?_⟩
  · have hpos := bitPeriod_pos h.running.bitdur.1
    have hindex : periodIndex s.tx = 0 := by
      rw [periodIndex, h.phase, h.bitIndex]
      rfl
    rw [h.timer, timerStart_toNat h.running.bitdur.2, hindex]
    omega
  · exact absurd (hguard.symm.trans h.phase) (by decide)

theorem OnSchedule.timer_lt (h : OnSchedule s k t) : t.tx.timer.toNat < bitPeriod s := by
  rw [← h.same.bitPeriod]
  exact h.running.timer

theorem OnSchedule.periodIndex_le (h : OnSchedule s k t) : periodIndex t.tx ≤ s.tx.total.toNat := by
  rw [← h.same.total]
  unfold periodIndex
  cases t.tx.phase
  · exact h.running.index.le
  · exact le_rfl

/-- The cycle's number tells the period. -/
theorem OnSchedule.div_eq (h : OnSchedule s k t) : k / bitPeriod s = periodIndex t.tx := by
  have hclock := h.clock
  have htimer := h.timer_lt
  rw [Nat.succ_mul] at hclock
  exact Nat.div_eq_of_lt_le (by omega) (by rw [Nat.succ_mul]; omega)

/-- In a period's last cycle the next cycle's number is the start of the next period. -/
theorem OnSchedule.succ_eq (h : OnSchedule s k t) (htimer : t.tx.timer = 0#32) :
    k + 1 = (periodIndex t.tx + 1) * bitPeriod s := by
  have hclock := h.clock
  rwa [htimer] at hclock

theorem OnSchedule.mod_eq_zero_iff (h : OnSchedule s k t) :
    (k + 1) % bitPeriod s = 0 ↔ t.tx.timer = 0#32 := by
  constructor
  · intro hmod
    have hdvd : bitPeriod s ∣ (k + 1) + t.tx.timer.toNat := by
      rw [Nat.add_right_comm, h.clock]
      exact Nat.dvd_mul_left _ _
    have hdvd' := (Nat.dvd_add_right (Nat.dvd_of_mod_eq_zero hmod)).mp hdvd
    exact BitVec.eq_of_toNat_eq (Nat.eq_zero_of_dvd_of_lt hdvd' h.timer_lt)
  · intro htimer
    rw [h.succ_eq htimer]
    exact Nat.mul_mod_left _ _

/-- A cycle is followed by one that starts a bit but for the last in each bit before the frame's last. -/
theorem OnSchedule.startsBit_iff (h : OnSchedule s k t) :
    (k + 1) % bitPeriod s = 0 ∧ (k + 1) / bitPeriod s < s.tx.total.toNat ↔
      t.tx.timer = 0#32 ∧ periodIndex t.tx + 1 < s.tx.total.toNat := by
  rw [h.mod_eq_zero_iff]
  refine and_congr_right fun htimer => ?_
  rw [h.succ_eq htimer, Nat.mul_div_cancel _ (by have := h.timer_lt; omega)]

/-- The send's last cycle is the last of the guard. -/
theorem OnSchedule.last_iff (h : OnSchedule s k t) :
    k + 1 = (s.tx.total.toNat + 1) * bitPeriod s ↔
      t.tx.timer = 0#32 ∧ periodIndex t.tx = s.tx.total.toNat := by
  constructor
  · intro hk
    have hclock := h.clock
    have hle := Nat.mul_le_mul_right (bitPeriod s) (Nat.add_le_add_right h.periodIndex_le 1)
    have htimer : t.tx.timer = 0#32 := BitVec.eq_of_toNat_eq (by simp only [BitVec.toNat_ofNat]; omega)
    have hpos : 0 < bitPeriod s := by have := h.timer_lt; omega
    exact ⟨htimer, Nat.succ_injective (Nat.eq_of_mul_eq_mul_right hpos ((h.succ_eq htimer).symm.trans hk))⟩
  · rintro ⟨htimer, hindex⟩
    rw [h.succ_eq htimer, hindex]

/-! ### A cycle on schedule -/

theorem OnSchedule.cyclesOnly (h : OnSchedule s k t) (hcycles : CyclesOnly s.inputs) :
    CyclesOnly t.inputs := h.inputs ▸ hcycles.drop k

theorem OnSchedule.periodIndex_lt (h : OnSchedule s k t) (hphase : t.tx.phase = .bits) :
    periodIndex t.tx = t.tx.bitIndex.toNat ∧ t.tx.bitIndex.toNat < s.tx.total.toNat := by
  rw [periodIndex, hphase, ← h.same.total]
  exact ⟨rfl, h.running.index⟩

theorem OnSchedule.periodIndex_eq (h : OnSchedule s k t) (hphase : t.tx.phase = .guard) :
    periodIndex t.tx = s.tx.total.toNat := by
  rw [periodIndex, hphase, ← h.same.total]

theorem SendCycle.inputs_drop {u : State} (hcycle : SendCycle t u) (h : OnSchedule s k t) :
    u.inputs = s.inputs.drop (k + 1) := by
  rw [hcycle.inputs, h.inputs, List.tail_drop]

/-- While the period lasts the cycle counts it down. -/
theorem OnSchedule.count (h : OnSchedule s k t) (hcycles : CyclesOnly s.inputs) (hgoes : ¬ Stops t)
    (htimer : t.tx.timer ≠ 0#32) : ∃ u, step t = .next u ∧ OnSchedule s (k + 1) u ∧ NoTxIrqSet t u := by
  obtain ⟨u, hcycle, hirq, hcancel, htx⟩ := step_counts h.running h.busy (h.cyclesOnly hcycles) htimer
  have hbusy : u.tx.busy = true := by rw [htx]; exact h.busy
  refine ⟨u, hcycle.next, ⟨h.reaches.tail hcycle.next, h.same.trans hcycle.same, hcycle.txInv.2 hbusy,
    hbusy, Bool.not_eq_true _ ▸ mt hcancel.mp hgoes, hcycle.inputs_drop h, ?_, ?_⟩, hirq⟩
  · have hclock := h.clock
    have hindex : periodIndex u.tx = periodIndex t.tx := by rw [htx]; rfl
    have htimer' : u.tx.timer.toNat + 1 = t.tx.timer.toNat := by
      rw [htx]
      simp only
      bv_omega
    rw [hindex]
    omega
  · rw [htx]
    exact h.completed

/-- A new period starts as the one before it has been counted out. -/
theorem OnSchedule.newPeriod {u : State} (h : OnSchedule s k t) (hcycle : SendCycle t u)
    (htimer : t.tx.timer = 0#32) (hbusy : u.tx.busy = true) (hcancel : u.tx.cancel = false)
    (hindex : periodIndex u.tx = periodIndex t.tx + 1) (hstart : u.tx.timer = timerStart t)
    (hcompleted : u.tx.phase = .guard → u.tx.lastEnd = .completed) : OnSchedule s (k + 1) u := by
  refine ⟨h.reaches.tail hcycle.next, h.same.trans hcycle.same, hcycle.txInv.2 hbusy, hbusy, hcancel,
    hcycle.inputs_drop h, ?_, hcompleted⟩
  have hpos : 0 < bitPeriod s := by have := h.timer_lt; omega
  rw [hindex, hstart, timerStart_toNat h.running.bitdur.2, h.same.bitPeriod, h.succ_eq htimer,
    Nat.succ_mul (_ + 1)]
  omega

/-- After the frame's last bit the guard starts. -/
theorem OnSchedule.startGuard (h : OnSchedule s k t) (hcycles : CyclesOnly s.inputs) (hgoes : ¬ Stops t)
    (htimer : t.tx.timer = 0#32) (hphase : t.tx.phase = .bits)
    (hlast : t.tx.bitIndex.toNat + 1 = t.tx.total.toNat) :
    ∃ u, step t = .next u ∧ OnSchedule s (k + 1) u ∧ NoTxIrqSet t u := by
  obtain ⟨u, hcycle, hirq, hcancel, htx⟩ :=
    step_startsGuard h.running h.busy (h.cyclesOnly hcycles) htimer hphase (.inr hlast)
  refine ⟨u, hcycle.next, h.newPeriod hcycle htimer (by rw [htx]; exact h.busy)
    (Bool.not_eq_true _ ▸ mt hcancel.mp hgoes) ?_ (by rw [htx]) fun _ => by rw [htx]; exact if_pos hlast,
    hirq⟩
  rw [(h.periodIndex_lt hphase).1, hlast, htx]
  rfl

/-- After another bit the next one starts. -/
theorem OnSchedule.startBit (h : OnSchedule s k t) (hcycles : CyclesOnly s.inputs) (hgoes : ¬ Stops t)
    (htimer : t.tx.timer = 0#32) (hphase : t.tx.phase = .bits)
    (hnext : t.tx.bitIndex.toNat + 1 < t.tx.total.toNat) :
    ∃ u, step t = .next u ∧ OnSchedule s (k + 1) u ∧ u.irqStatus.getLsbD 0 = true ∧
      (u.irqStatus.getLsbD 1 = true → t.irqStatus.getLsbD 1 = true) := by
  obtain ⟨u, hcycle, hbit, hdone, hbusy, hphase', hcancel, hindex, hstart⟩ :=
    step_startsNextBit h.running h.busy (h.cyclesOnly hcycles) htimer hphase hgoes hnext
  refine ⟨u, hcycle.next, h.newPeriod hcycle htimer hbusy hcancel ?_ hstart fun hguard => ?_, hbit, hdone⟩
  · rw [(h.periodIndex_lt hphase).1, periodIndex, hphase']
    exact hindex
  · exact absurd (hguard.symm.trans hphase') (by decide)

/-- After the guard the send has ended. -/
theorem OnSchedule.endSend (h : OnSchedule s k t) (hcycles : CyclesOnly s.inputs)
    (htimer : t.tx.timer = 0#32) (hphase : t.tx.phase = .guard) :
    ∃ u, step t = .next u ∧ u.inputs = s.inputs.drop (k + 1) ∧ SendEnded .completed u ∧
      u.irqStatus.getLsbD 1 = true ∧ (u.irqStatus.getLsbD 0 = true → t.irqStatus.getLsbD 0 = true) := by
  obtain ⟨u, hcycle, hdone, hbit, htx⟩ :=
    step_endsSend h.running h.busy (h.cyclesOnly hcycles) htimer hphase
  refine ⟨u, hcycle.next, hcycle.inputs_drop h, ?_, hdone, hbit⟩
  constructor <;> rw [htx]
  exact h.completed hphase

/-- One cycle of a send that goes on: what it sets of IRQ_STATUS, and where it leads (41 R153). -/
theorem OnSchedule.next (h : OnSchedule s k t) (hcycles : CyclesOnly s.inputs) (hgoes : ¬ Stops t) :
    ∃ u, step t = .next u ∧
      (t.tx.timer = 0#32 ∧ periodIndex t.tx + 1 < s.tx.total.toNat → u.irqStatus.getLsbD 0 = true) ∧
      (¬ (t.tx.timer = 0#32 ∧ periodIndex t.tx + 1 < s.tx.total.toNat) →
        u.irqStatus.getLsbD 0 = true → t.irqStatus.getLsbD 0 = true) ∧
      (t.tx.timer = 0#32 ∧ periodIndex t.tx = s.tx.total.toNat →
        u.irqStatus.getLsbD 1 = true ∧ SendEnded .completed u ∧ u.inputs = s.inputs.drop (k + 1)) ∧
      (¬ (t.tx.timer = 0#32 ∧ periodIndex t.tx = s.tx.total.toNat) →
        (u.irqStatus.getLsbD 1 = true → t.irqStatus.getLsbD 1 = true) ∧ OnSchedule s (k + 1) u) := by
  by_cases htimer : t.tx.timer = 0#32
  swap
  · obtain ⟨u, hstep, hu, hirq⟩ := h.count hcycles hgoes htimer
    exact ⟨u, hstep, fun hstart => absurd hstart.1 htimer, fun _ => hirq 0 (by decide),
      fun hlast => absurd hlast.1 htimer, fun _ => ⟨hirq 1 (by decide), hu⟩⟩
  cases hphase : t.tx.phase with
  | guard =>
    obtain ⟨u, hstep, hinputs, hended, hdone, hbit⟩ := h.endSend hcycles htimer hphase
    have hindex := h.periodIndex_eq hphase
    exact ⟨u, hstep, fun hstart => absurd hstart.2 (by omega), fun _ => hbit,
      fun _ => ⟨hdone, hended, hinputs⟩, fun hlast => absurd ⟨htimer, hindex⟩ hlast⟩
  | bits =>
    obtain ⟨hindex, hlt⟩ := h.periodIndex_lt hphase
    have htotal := congrArg BitVec.toNat h.same.total
    by_cases hlast : t.tx.bitIndex.toNat + 1 = t.tx.total.toNat
    · obtain ⟨u, hstep, hu, hirq⟩ := h.startGuard hcycles hgoes htimer hphase hlast
      exact ⟨u, hstep, fun hstart => absurd hstart.2 (by omega), fun _ => hirq 0 (by decide),
        fun hguard => absurd hguard.2 (by omega), fun _ => ⟨hirq 1 (by decide), hu⟩⟩
    · obtain ⟨u, hstep, hu, hbit, hdone⟩ := h.startBit hcycles hgoes htimer hphase (by omega)
      exact ⟨u, hstep, fun _ => hbit, fun hstart => absurd ⟨htimer, by omega⟩ hstart,
        fun hguard => absurd hguard.2 (by omega), fun _ => ⟨hdone, hu⟩⟩

theorem OnSchedule.not_stops (h : OnSchedule s k t) {n : Nat} (hk : k < n)
    (hstop : NeverCommands 2#32 (s.inputs.take n)) : ¬ Stops t := by
  unfold Stops
  rw [h.cancel, h.inputs]
  exact fun hstops => hstops.elim (by decide) (hstop.not_writesCmd hk)

/-- A send that no TX_STOP meets stays on schedule to the end of its guard. -/
theorem SendStarted.exists_onSchedule (h : SendStarted s) (hcycles : CyclesOnly s.inputs)
    (hstop : NeverCommands 2#32 (s.inputs.take ((s.tx.total.toNat + 1) * bitPeriod s)))
    (hk : k < (s.tx.total.toNat + 1) * bitPeriod s) : ∃ t, OnSchedule s k t := by
  induction k with
  | zero => exact ⟨s, h.onSchedule⟩
  | succ k ih =>
    obtain ⟨t, ht⟩ := ih (by omega)
    obtain ⟨u, -, -, -, -, hu⟩ := ht.next hcycles (ht.not_stops (by omega) hstop)
    exact ⟨u, (hu (mt ht.last_iff.mpr hk.ne)).2⟩

/-- A send that no TX_STOP meets has ended with the last cycle of its guard. -/
theorem SendStarted.exists_ended (h : SendStarted s) (hcycles : CyclesOnly s.inputs)
    (hstop : NeverCommands 2#32 (s.inputs.take ((s.tx.total.toNat + 1) * bitPeriod s))) :
    ∃ u, Reaches ((s.tx.total.toNat + 1) * bitPeriod s) s u ∧ SendEnded .completed u ∧
      u.inputs = s.inputs.drop ((s.tx.total.toNat + 1) * bitPeriod s) := by
  have hpos : 0 < (s.tx.total.toNat + 1) * bitPeriod s :=
    Nat.mul_pos (Nat.succ_pos _) (bitPeriod_pos h.running.bitdur.1)
  obtain ⟨m, hm⟩ := Nat.exists_eq_succ_of_ne_zero hpos.ne'
  obtain ⟨t, ht⟩ := h.exists_onSchedule (k := m) hcycles hstop (by omega)
  obtain ⟨u, hstep, -, -, hend, -⟩ := ht.next hcycles (ht.not_stops (by omega) hstop)
  obtain ⟨-, hended, hinputs⟩ := hend (ht.last_iff.mp hm.symm)
  rw [hm]
  exact ⟨u, ht.reaches.tail hstep, hended, hinputs⟩

/-- What the line shows while a send is on schedule. -/
theorem OnSchedule.shown (h : OnSchedule s k t) :
    (k < s.tx.total.toNat * bitPeriod s →
      t.tx.phase = .bits ∧ t.tx.level = sendBit s s.tx.draw (k / bitPeriod s)) ∧
    (s.tx.total.toNat * bitPeriod s ≤ k → t.tx.phase = .guard ∧ t.tx.level = false) := by
  have hpos : 0 < bitPeriod s := by have := h.timer_lt; omega
  rw [← not_lt, ← Nat.div_lt_iff_lt_mul hpos, h.div_eq]
  cases hphase : t.tx.phase with
  | guard =>
    have hindex := h.periodIndex_eq hphase
    exact ⟨fun hlt => absurd hlt (by omega), fun _ => ⟨rfl, h.running.guardLow hphase⟩⟩
  | bits =>
    obtain ⟨hindex, hlt⟩ := h.periodIndex_lt hphase
    refine ⟨fun _ => ⟨rfl, ?_⟩, fun hge => absurd hge (by omega)⟩
    have hlen : s.tx.len.toNat ≤ 2000 := h.same.len ▸ h.running.len
    rw [h.running.bitShown hphase, h.same.sendBit hlen, hindex]

end Schedule

/-- Settles O14: the accepted send is on schedule in each of its cycles, and idle after them. -/
theorem sendTiming : Obligations.SendTiming := by
  intro s s₁ e f rest hscript hrest hidle hstep hbusy T N hstop
  obtain ⟨hstart, hinputs⟩ := step_starts hidle (cyclesOnly_cmdCycle hscript hrest) hstep hbusy
  rw [hscript, List.tail_cons] at hinputs
  subst hinputs
  refine ⟨hstart.irq, fun k hk => ?_, fun k hk hsend => ?_⟩
  · obtain ⟨t, ht⟩ := hstart.exists_onSchedule hrest hstop hk
    obtain ⟨u, hnext, hbit, hnobit, hend, hgoes⟩ := ht.next hrest (ht.not_stops hk hstop)
    refine ⟨t, u, ht.reaches, hnext, ht.busy, ht.running.acquired, ht.shown.1, ht.shown.2, ?_, ?_⟩
    · split
      next hstart => exact hbit (ht.startsBit_iff.mp hstart)
      next hstart => exact hnobit (mt ht.startsBit_iff.mpr hstart)
    · split
      next hlast =>
        obtain ⟨hdone, hended, -⟩ := hend (ht.last_iff.mp hlast)
        exact ⟨hdone, hended.lastEnd⟩
      next hlast => exact (hgoes (mt ht.last_iff.mpr hlast)).1
  · obtain ⟨u, hu, hended, hinputs⟩ := hstart.exists_ended hrest hstop
    obtain ⟨j, rfl⟩ := Nat.exists_eq_add_of_le hk
    rw [List.drop_take, ← hinputs, Nat.add_sub_cancel_left] at hsend
    obtain ⟨t, ht, hended'⟩ := hended.run (hinputs ▸ hrest.drop _) fun i => hsend.not_writesCmd
    exact ⟨t, hu.trans ht, hended'.busy, hended'.acquire, hended'.level⟩

end Sys2Proof.Machine
end

section
/-!
The transmit commands, one TX phase, the progress registers and the transmit lock (41 R140 to R157).
-/

namespace Sys2Proof.Machine

/-! ### TX_SEND, outcome by outcome (41 R144) -/

section TxSend

variable {s : State}

theorem validBitdur_eq_false {d : BitVec 16} (h : d.toNat < 50 ∨ 1000 < d.toNat) :
    validBitdur d = false := by
  rw [← Bool.not_eq_true, validBitdur_iff]
  omega

theorem txSend_invalidBitdur (hidle : s.tx.busy = false)
    (h : s.tx.bitdur.toNat < 50 ∨ 1000 < s.tx.bitdur.toNat) :
    txSend s = rejectCommand 0x01#8 .invalidBitDuration s := by
  simp [txSend, hidle, validBitdur_eq_false h]

theorem txSend_tooLong (hidle : s.tx.busy = false)
    (hbitdur : 50 ≤ s.tx.bitdur.toNat ∧ s.tx.bitdur.toNat ≤ 1000) (h : 2000 < s.tx.len.toNat) :
    txSend s = rejectCommand 0x01#8 .msgTooLong s := by
  simp [txSend, hidle, (validBitdur_iff _).mpr hbitdur, h]

theorem txSend_tooManyChars (hidle : s.tx.busy = false)
    (hbitdur : 50 ≤ s.tx.bitdur.toNat ∧ s.tx.bitdur.toNat ≤ 1000) (hlen : s.tx.len.toNat ≤ 2000)
    (h : 500 < sendChars s s.freshDraw) :
    txSend s = rejectCommand 0x01#8 .msgTooLong { s with freshDraw := s.freshDraw + 1 } := by
  simp [txSend, hidle, (validBitdur_iff _).mpr hbitdur, not_lt.mpr hlen, h]

theorem txSend_accepts (hidle : s.tx.busy = false)
    (hbitdur : 50 ≤ s.tx.bitdur.toNat ∧ s.tx.bitdur.toNat ≤ 1000) (hlen : s.tx.len.toNat ≤ 2000)
    (h : sendChars s s.freshDraw ≤ 500) :
    txSend s = acceptSend (sendChars s s.freshDraw) (s.freshDraw + 1)
      { s with freshDraw := s.freshDraw + 2 } := by
  simp [txSend, hidle, (validBitdur_iff _).mpr hbitdur, not_lt.mpr hlen, not_lt.mpr h]

/-- The draw counter once TX_SEND has counted the characters, by its verdict (log 3). -/
def drawAfterCount (s : State) : Nat :=
  if 500 < sendChars s s.freshDraw then s.freshDraw + 1 else s.freshDraw + 2

theorem sendChars_eq_length (s : State) (draw : Nat) :
    sendChars s draw = ((List.range s.tx.len.toNat).filter
      fun j => decide (txByte s.mem draw j &&& 0xC0#8 ≠ 0x80#8)).length :=
  List.countP_eq_length_filter

theorem txByte_of_written {m : Memory} {j : Nat} {b : Byte} (h : readMem m (0x1000 + j) = some b)
    (draw : Nat) : txByte m draw j = b := by
  rw [txByte, byteOrFree, Config.params_txMsgBase, h, Option.getD_some]

/-- The numbers of an accepted send in the registers that show them (41 R140, R145). -/
theorem acceptSend_numbers (hbitdur : s.tx.bitdur.toNat ≤ 1000) (hlen : s.tx.len.toNat ≤ 2000)
    {chars : Nat} (hchars : chars ≤ 500) (draw : Nat) :
    (acceptSend chars draw s).tx.total.toNat = 16 + 16 * s.tx.len.toNat ∧
      (acceptSend chars draw s).tx.chars.toNat = chars ∧
      (acceptSend chars draw s).tx.estMs.toNat = (16 + 16 * s.tx.len.toNat) * s.tx.bitdur.toNat ∧
      (acceptSend chars draw s).tx.pct.toNat = 100 / (16 + 16 * s.tx.len.toNat) ∧
      (acceptSend chars draw s).tx.timer.toNat = s.tx.bitdur.toNat * clkPerMs s - 1 := by
  refine ⟨total_toNat hlen, ?_, ?_, ?_, timerStart_toNat hbitdur⟩
  · exact Nat.mod_eq_of_lt (by omega)
  · have hprod : (16 + 16 * s.tx.len.toNat) * s.tx.bitdur.toNat ≤ 32016 * 1000 :=
      Nat.mul_le_mul (by omega) hbitdur
    rw [← frameLength_eq] at hprod ⊢
    exact Nat.mod_eq_of_lt (by omega)
  · rw [← frameLength_eq]
    exact progressPct_toNat (by rw [frameLength_eq]; omega)

end TxSend

/-- Settles O8: each outcome is one branch of the checks; the bytes counted are those of the count's draw. -/
theorem txSendResult : Obligations.TxSendResult := by
  refine ⟨rfl, fun m draw j b h => txByte_of_written h draw, fun s => ?_⟩
  refine ⟨txByte s.mem s.freshDraw, drawAfterCount s, fun j b h => txByte_of_written h _, ?_⟩
  intro D L C
  have hC : sendChars s s.freshDraw = C := sendChars_eq_length s s.freshDraw
  refine ⟨fun hbusy => ?_, fun hidle h => ?_, fun hidle hlo hhi h => ?_, fun hidle hlo hhi hlen h => ?_,
    fun hidle hlo hhi hlen h => ?_⟩
  · exact congrArg Host.Outcome.next (txSend_busy hbusy)
  · exact congrArg Host.Outcome.next (txSend_invalidBitdur hidle h)
  · exact congrArg Host.Outcome.next (txSend_tooLong hidle ⟨hlo, hhi⟩ h)
  · rw [← hC] at h
    rw [drawAfterCount, if_pos h]
    exact congrArg Host.Outcome.next (txSend_tooManyChars hidle ⟨hlo, hhi⟩ hlen h)
  · rw [← hC] at h
    rw [drawAfterCount, if_neg (not_lt.mpr h)]
    refine ⟨_, congrArg Host.Outcome.next (txSend_accepts hidle ⟨hlo, hhi⟩ hlen h), ?_⟩
    obtain ⟨htotal, hchars, hest, hpct, htimer⟩ :=
      acceptSend_numbers (s := { s with freshDraw := s.freshDraw + 2 }) hhi hlen h (s.freshDraw + 1)
    exact ⟨rfl, rfl, rfl, htotal, hchars.trans hC, hest, rfl, rfl, rfl, rfl, rfl, rfl, rfl, hpct, htimer⟩

/-- Settles O9: TX_STOP's meaning in its two branches. -/
theorem txStopResult : Obligations.TxStopResult := by
  refine ⟨rfl, fun s => ⟨fun hbusy => ?_, fun hidle => ?_⟩⟩
  · rw [exec, execTxStop, if_pos hbusy]
    rfl
  · rw [exec, execTxStop, if_neg (by rw [hidle]; exact Bool.false_ne_true)]
    rfl

/-! ### The TX phase -/

/-- A period counts down as many cycles as its timer holds (41 R150). -/
theorem txPhases_count {k : Nat} {s : State} (hbusy : s.tx.busy = true) (hk : k ≤ s.tx.timer.toNat) :
    txPhases k s = .next { s with tx := { s.tx with timer := s.tx.timer - BitVec.ofNat 32 k } } := by
  induction k generalizing s with
  | zero =>
    rw [BitVec.sub_zero]
    rfl
  | succ k ih =>
    have htimer : s.tx.timer ≠ 0#32 := by
      intro h
      rw [h] at hk
      exact absurd hk (Nat.not_succ_le_zero k)
    have hcount : s.tx.timer - 1#32 - BitVec.ofNat 32 k = s.tx.timer - BitVec.ofNat 32 (k + 1) := by
      rw [BitVec.sub_sub, BitVec.ofNat_add, BitVec.add_comm]
    have hk' : k ≤ (s.tx.timer - 1#32).toNat := by bv_omega
    rw [txPhases, hbusy, txPhase_count htimer, chain_next, ← hcount]
    exact ih hbusy hk'

/-- The next bit's registers (41 R151). -/
theorem startNextBit_numbers {s : State} (hnext : s.tx.bitIndex.toNat + 1 < s.tx.total.toNat) :
    (startNextBit s).tx.bitIndex.toNat = s.tx.bitIndex.toNat + 1 ∧
      (startNextBit s).tx.sent.toNat = s.tx.bitIndex.toNat + 2 ∧
      (startNextBit s).tx.pct.toNat = (s.tx.bitIndex.toNat + 2) * 100 / s.tx.total.toNat := by
  have htotal := s.tx.total.isLt
  exact ⟨Nat.mod_eq_of_lt (by omega), Nat.mod_eq_of_lt (by omega), progressPct_toNat hnext⟩

/-- Settles O13: the outcomes of a TX phase, one by one. -/
theorem txPhaseResult : Obligations.TxPhaseResult := by
  intro s i T L start
  refine ⟨rfl, txPhase_count, fun k => txPhases_count, timerStart_toNat, fun htimer hphase hend => ?_,
    fun htimer hphase hcancel hnext hlen htotal => ?_, txPhase_endSend, fun hinv hidle => ?_⟩
  · rw [txPhase_startGuard htimer hphase hend]
    simp only [startGuard, onLastBit_iff]
    rfl
  · obtain ⟨hindex, hsent, hpct⟩ := startNextBit_numbers hnext
    refine ⟨(startNextBit s).tx, txPhase_startNextBit htimer hphase hcancel hnext hlen htotal, rfl, hindex,
      ?_, hsent, hpct⟩
    rfl
  · obtain ⟨hlevel, hacquire, -, -⟩ := hinv.2.1.1 hidle
    exact ⟨hlevel, hacquire⟩

/-! ### Progress -/

/-- A percentage of `n` out of `d` is 100 only at the end. -/
theorem percent_eq_hundred_iff {n d : Nat} (hd : 0 < d) (h : n ≤ d) : n * 100 / d = 100 ↔ n = d := by
  constructor
  · intro hpct
    have := (Nat.le_div_iff_mul_le hd).mp hpct.ge
    omega
  · rintro rfl
    exact Nat.mul_div_cancel_left 100 hd

/-- Settles O16: SENT and PCT are the invariant's, and SENT is at most TX_TOTAL. -/
theorem progressOfARunningSend : Obligations.ProgressOfARunningSend := by
  intro s hinv hbusy T
  have hrun := hinv.2.1.2 hbusy
  have hindex := hrun.index
  have hsent : s.tx.sent.toNat ≤ T := hrun.sent ▸ hindex
  have hpct : s.tx.pct.toNat = s.tx.sent.toNat * 100 / T := hrun.pct
  refine ⟨hrun.sent, hpct, ?_, ?_⟩
  · rw [hpct]
    exact Nat.div_le_of_le_mul (Nat.mul_le_mul_right 100 hsent)
  · rw [← BitVec.toNat_inj, hpct, ← hrun.sent]
    exact percent_eq_hundred_iff (by omega) hsent

/-! ### The transmit lock -/

theorem unlessBusy_of_busy {s : State} (hbusy : s.tx.busy = true) (t : State) : unlessBusy s t = s := by
  rw [unlessBusy, if_pos hbusy]

theorem unlessBusy_of_idle {s : State} (hidle : s.tx.busy = false) (t : State) : unlessBusy s t = t := by
  rw [unlessBusy, if_neg (by rw [hidle]; exact Bool.false_ne_true)]

/-- The registers the transmit lock guards (41 R148). -/
def isLocked : Reg → Bool
  | .txBitdur | .txLen | .txMsg _ => true
  | _ => false

theorem writeReg_locked {r : Reg} (hr : isLocked r = true) {s : State} (hbusy : s.tx.busy = true)
    (w : Word) : writeReg r w s = .next s := by
  cases r with
  | txBitdur | txLen | txMsg => exact congrArg Host.Outcome.next (unlessBusy_of_busy hbusy _)
  | _ => cases hr

/-- A word written to TX_MSG while a send runs is not stored (41 R148). -/
theorem writes_txMsg_busy {s : State} {k : Nat} (hk : k < 500) (hbusy : s.tx.busy = true) (w : Word) :
    Writes s (BitVec.ofNat 16 (0x1000 + 4 * k)) w s := by
  have haddr := toNat_ofNat_wordAddr (base := 0x1000) (k := k) (by omega)
  have hreg := regAt_txMsg (a := 0x1000 + 4 * k) (by omega) (by omega)
  rw [← haddr] at hreg
  exact writes_of_regAt (by rw [haddr]; omega) hreg (writeReg_locked rfl (by exact hbusy) w)

/-- Settles O46: the lock is the choice between the old and the new state of each write. -/
theorem transmitLock : Obligations.TransmitLock := by
  intro s w k hk
  refine ⟨reads_register .txBitdur (by decide) (BitVec.ofNat_toNat 32 _).symm,
    reads_register .txLen (by decide) (BitVec.ofNat_toNat 32 _).symm, fun hbusy => ?_, fun hidle => ?_⟩
  · exact ⟨writes_register .txBitdur (by decide) (writeReg_locked rfl (by exact hbusy) w),
      writes_register .txLen (by decide) (writeReg_locked rfl (by exact hbusy) w),
      writes_txMsg_busy hk hbusy w⟩
  · have hstores (t : State) : unlessBusy (respond 0#32 false s) t = t :=
      unlessBusy_of_idle (by exact hidle) t
    refine ⟨writes_register .txBitdur (by decide) (congrArg Host.Outcome.next (hstores _)),
      writes_register .txLen (by decide) (congrArg Host.Outcome.next (hstores _)), _,
      writes_txMsg_idle hk hidle w, ?_⟩
    have hlen : (bytesOfWord w).length = 4 := rfl
    rw [readMem_writeMem, if_pos (by omega), Nat.sub_self, bytesOfWord_getElem? w (by decide)]
    exact congrArg some (BitVec.setWidth_eq_extractLsb' (by decide)).symm

end Sys2Proof.Machine
end

section
/-!
The debounce law (42 R180 to R187): the candidate is the open run of the observations so far, so a session
emits the long enough runs but the last.  Its bits alternate where every run is long enough, and take at least
`max(STABLE, 1)` observations each.
-/

namespace Sys2Proof.Machine

/-! ### Runs of observations -/

/-- A bit before a sequence is its only run, lengthens its first run, or is a run before them all. -/
theorem runsOf_cons_cases (b : Bool) (t : Bits) :
    (runsOf t = [] ∧ runsOf (b :: t) = [(b, 1)]) ∨
    (∃ n rs, runsOf t = (b, n) :: rs ∧ runsOf (b :: t) = (b, n + 1) :: rs) ∨
    ∃ c n rs, b ≠ c ∧ runsOf t = (c, n) :: rs ∧ runsOf (b :: t) = (b, 1) :: (c, n) :: rs := by
  rw [runsOf]
  split
  · next h => exact .inl ⟨h, rfl⟩
  · next c n rs h =>
    by_cases hbc : b = c
    · subst hbc
      exact .inr (.inl ⟨n, rs, h, if_pos rfl⟩)
    · exact .inr (.inr ⟨c, n, rs, hbc, h, if_neg hbc⟩)

/-- The first run is of the first bit. -/
theorem exists_runsOf_cons (b : Bool) (t : Bits) : ∃ n rs, runsOf (b :: t) = (b, n) :: rs := by
  obtain ⟨-, h⟩ | ⟨n, rs, -, h⟩ | ⟨c, n, rs, -, -, h⟩ := runsOf_cons_cases b t <;> exact ⟨_, _, h⟩

theorem runsOf_cons_ne_nil (b : Bool) (t : Bits) : runsOf (b :: t) ≠ [] := by
  obtain ⟨n, rs, h⟩ := exists_runsOf_cons b t
  exact h ▸ List.cons_ne_nil _ _

/-- Equal bits are one run. -/
theorem runsOf_replicate (v : Bool) (n : Nat) : runsOf (List.replicate (n + 1) v) = [(v, n + 1)] := by
  induction n with
  | zero => rfl
  | succ n ih =>
    rw [List.replicate_succ, runsOf, ih]
    exact if_pos rfl

/-- A run ends where the bits change. -/
theorem runsOf_replicate_append {v w : Bool} (hvw : v ≠ w) (n : Nat) (t : Bits) :
    runsOf (List.replicate (n + 1) v ++ w :: t) = (v, n + 1) :: runsOf (w :: t) := by
  induction n with
  | zero =>
    obtain ⟨k, rs, h⟩ := exists_runsOf_cons w t
    change runsOf (v :: w :: t) = _
    rw [runsOf, h]
    exact if_neg hvw
  | succ n ih =>
    rw [List.replicate_succ, List.cons_append, runsOf, ih]
    exact if_pos rfl

/-- Neighbouring runs have different values. -/
theorem isChain_runsOf (obs : Bits) : (runsOf obs).IsChain (·.1 ≠ ·.1) := by
  induction obs with
  | nil => exact .nil
  | cons b t ih =>
    obtain ⟨-, h⟩ | ⟨n, rs, ht, h⟩ | ⟨c, n, rs, hbc, ht, h⟩ := runsOf_cons_cases b t <;> rw [h]
    · exact .singleton _
    · rw [ht, List.isChain_cons] at ih
      exact List.isChain_cons.mpr ih
    · rw [ht] at ih
      exact .cons_cons hbc ih

theorem runsOf_pos (obs : Bits) : ∀ r ∈ runsOf obs, 1 ≤ r.2 := by
  induction obs with
  | nil => exact List.forall_mem_nil _
  | cons b t ih =>
    obtain ⟨-, h⟩ | ⟨n, rs, ht, h⟩ | ⟨c, n, rs, -, ht, h⟩ := runsOf_cons_cases b t <;> rw [h]
    · exact List.forall_mem_singleton.mpr le_rfl
    · rw [ht, List.forall_mem_cons] at ih
      exact List.forall_mem_cons.mpr ⟨Nat.le_add_left 1 n, ih.2⟩
    · rw [ht] at ih
      exact List.forall_mem_cons.mpr ⟨le_rfl, ih⟩

/-- The runs share out the bits. -/
theorem sum_runsOf (obs : Bits) : ((runsOf obs).map (·.2)).sum = obs.length := by
  induction obs with
  | nil => rfl
  | cons b t ih =>
    rw [List.length_cons, ← ih]
    obtain ⟨ht, h⟩ | ⟨n, rs, ht, h⟩ | ⟨c, n, rs, -, ht, h⟩ := runsOf_cons_cases b t <;> rw [h, ht]
    · rfl
    · exact Nat.add_right_comm n 1 _
    · exact Nat.add_comm 1 _

/-! ### What a run gives (42 R183) -/

theorem stableBits_nil (stable : BitVec 8) : stableBits stable [] = [] := rfl

/-- The last run gives nothing. -/
theorem stableBits_replicate (stable : BitVec 8) (v : Bool) (n : Nat) :
    stableBits stable (List.replicate n v) = [] := by
  cases n with
  | zero => rfl
  | succ n => rw [stableBits, runsOf_replicate]; rfl

/-- A run that a change of value ends gives its value if it is long enough. -/
theorem stableBits_replicate_append (stable : BitVec 8) {v w : Bool} (hvw : v ≠ w) (n : Nat) (t : Bits) :
    stableBits stable (List.replicate (n + 1) v ++ w :: t) =
      (if max stable.toNat 1 ≤ n + 1 then [v] else []) ++ stableBits stable (w :: t) := by
  rw [stableBits, runsOf_replicate_append hvw, List.dropLast_cons_of_ne_nil (runsOf_cons_ne_nil w t),
    List.filter_cons, stableBits]
  simp only [decide_eq_true_eq]
  split <;> rfl

/-! ### The candidate is the open run -/

/-- The candidate is a run of `n` observations of `v`, its length saturated; none where `n = 0`
(42 R180). -/
structure CandidateRun (v : Bool) (n : Nat) (s : State) : Prop where
  valid : s.rx.candValid = decide (0 < n)
  val : 0 < n → s.rx.candVal = v
  run : 0 < n → s.rx.candRun.toNat = min n 255

theorem CandidateRun.congr {v : Bool} {n : Nat} {s t : State} (h : CandidateRun v n s)
    (hvalid : t.rx.candValid = s.rx.candValid) (hval : t.rx.candVal = s.rx.candVal)
    (hrun : t.rx.candRun = s.rx.candRun) : CandidateRun v n t :=
  ⟨hvalid ▸ h.valid, hval ▸ h.val, hrun ▸ h.run⟩

theorem candidateRun_setCandidate (v : Bool) {n : Nat} {run : BitVec 8} (hrun : run.toNat = min n 255)
    (hn : 0 < n) (s : State) : CandidateRun v n (setCandidate v run s) :=
  ⟨(decide_eq_true hn).symm, fun _ => rfl, fun _ => hrun⟩

theorem nextRun_toNat {run : BitVec 8} {n : Nat} (h : run.toNat = min n 255) :
    (nextRun run).toNat = min (n + 1) 255 := by
  rw [nextRun, h, Config.params_runMax, BitVec.toNat_ofNat]
  omega

/-- Saturation does not matter to the stability test: STABLE is at most 255. -/
theorem stableRun_eq_decide {stable run : BitVec 8} {n : Nat} (h : run.toNat = min n 255) :
    stableRun stable run = decide (max stable.toNat 1 ≤ n) := by
  have hstable : stable.toNat < 256 := stable.isLt
  rw [Bool.eq_iff_iff, stableRun_iff, h, decide_eq_true_iff]
  omega

/-- An observation moves the open run on; what it emits, and what the rest will give, is what the open run
and the rest give. -/
theorem debounce_stableBits {v : Bool} {n : Nat} {s : State} (h : CandidateRun v n s) (obs : Bool)
    (sum cnt : Nat) : ∃ v' n', CandidateRun v' n' (debounce obs sum cnt s).1 ∧
      ∀ rest, stableBits s.cfg.stable (List.replicate n v ++ obs :: rest) =
        (debounce obs sum cnt s).2.toList ++ stableBits s.cfg.stable (List.replicate n' v' ++ rest) := by
  obtain ⟨hvalid, hval, hrun⟩ := h
  obtain ⟨hnone, hd⟩ | ⟨hsome, hobs, hd⟩ | ⟨hsome, hobs, hstable, hd⟩ | ⟨hsome, hobs, hstable, hd⟩ :=
    debounce_cases obs sum cnt s <;> rw [hd]
  case inl =>
    obtain rfl : n = 0 := by simpa [hnone] using hvalid
    exact ⟨obs, 1, candidateRun_setCandidate obs rfl one_pos s, fun _ => rfl⟩
  all_goals
    have hn : 0 < n := by simpa [hsome] using hvalid
    obtain ⟨k, rfl⟩ := Nat.exists_eq_add_one_of_ne_zero hn.ne'
    rw [hval hn] at hobs
  case inr.inl =>
    subst hobs
    refine ⟨obs, k + 1 + 1, candidateRun_setCandidate obs (nextRun_toNat (hrun hn)) (by omega) s,
      fun rest => ?_⟩
    rw [List.replicate_succ' (n := k + 1), List.append_assoc]
    rfl
  case inr.inr.inl =>
    refine ⟨obs, 1, candidateRun_setCandidate obs rfl one_pos _, fun rest => ?_⟩
    rw [stableRun_eq_decide (hrun hn), decide_eq_true_iff] at hstable
    rw [stableBits_replicate_append _ (Ne.symm hobs), if_pos hstable, hval hn]
    rfl
  case inr.inr.inr =>
    refine ⟨obs, 1, candidateRun_setCandidate obs rfl one_pos s, fun rest => ?_⟩
    rw [stableRun_eq_decide (hrun hn), decide_eq_false_iff_not] at hstable
    rw [stableBits_replicate_append _ (Ne.symm hobs), if_neg hstable]
    rfl

theorem observationsOf_cons (c : Cfg) (f : Frame) (fs : List Frame) :
    observationsOf c (f :: fs) =
      if regionCount f c.halfw.toNat = 0 then observationsOf c fs
      else observed c.thresh (regionSum f c.halfw.toNat) (regionCount f c.halfw.toNat) ::
        observationsOf c fs := by
  by_cases hempty : regionCount f c.halfw.toNat = 0 <;> simp [observationsOf, hempty]

/-- A frame moves the open run on by its observation, and not at all if it is skipped. -/
theorem sampleFrame_stableBits {v : Bool} {n : Nat} {s : State} (h : CandidateRun v n s) (f : Frame) :
    ∃ v' n', CandidateRun v' n' (sampleFrame f s).1 ∧
      ∀ fs, stableBits s.cfg.stable (List.replicate n v ++ observationsOf s.cfg (f :: fs)) =
        (sampleFrame f s).2.toList ++
          stableBits s.cfg.stable (List.replicate n' v' ++ observationsOf s.cfg fs) := by
  simp only [sampleFrame_eq, observationsOf_cons]
  split
  · exact ⟨v, n, h.congr rfl rfl rfl, fun _ => rfl⟩
  · obtain ⟨v', n', hcand, hbits⟩ := debounce_stableBits (s := setLastObs _ (countFrame s))
      (h.congr rfl rfl rfl) _ _ _
    exact ⟨v', n', hcand, fun _ => hbits _⟩

/-- The debounce law with a run open already. -/
theorem sampleAll_stableBits {v : Bool} {n : Nat} {s : State} (h : CandidateRun v n s)
    (fs : List Frame) : (sampleAll fs s).2 =
      stableBits s.cfg.stable (List.replicate n v ++ observationsOf s.cfg fs) := by
  induction fs generalizing v n s with
  | nil =>
    rw [observationsOf, List.filterMap_nil, List.append_nil, stableBits_replicate]
    rfl
  | cons f fs ih =>
    obtain ⟨v', n', hcand, hbits⟩ := sampleFrame_stableBits h f
    rw [hbits, sampleAll, ih hcand, (sampleFrame_same f s).cfg]

/-- Settles O31: without a candidate the open run is empty. -/
theorem debounceLaw : Obligations.DebounceLaw := by
  intro fs s hnone
  have hcand : CandidateRun false 0 s := ⟨hnone, by rintro ⟨⟩, by rintro ⟨⟩⟩
  exact sampleAll_stableBits hcand fs

/-! ### Consequences for the emitted bits (42 R184, R187) -/

/-- Where every run is long enough, every run but the last gives its value. -/
theorem stableBits_of_all_stable {stable : BitVec 8} {obs : Bits}
    (h : ∀ r ∈ runsOf obs, max stable.toNat 1 ≤ r.2) :
    stableBits stable obs = (runsOf obs).dropLast.map (·.1) := by
  rw [stableBits, List.filter_eq_self.mpr fun r hr => decide_eq_true (h r (List.mem_of_mem_dropLast hr))]

theorem isChain_stableBits {stable : BitVec 8} {obs : Bits}
    (h : ∀ r ∈ runsOf obs, max stable.toNat 1 ≤ r.2) : (stableBits stable obs).IsChain (· ≠ ·) := by
  rw [stableBits_of_all_stable h, List.isChain_map]
  exact (isChain_runsOf obs).prefix (List.dropLast_prefix _)

/-- A pattern that begins with two equal bits occurs in no alternating sequence. -/
theorem not_occursAt_of_isChain {s p : Bits} (h : s.IsChain (· ≠ ·)) (hp : 1 < p.length)
    (h01 : p[0]? = p[1]?) (i : Nat) : ¬ occursAt s p i := by
  intro hocc
  have hlen := hocc.1
  have h0 := getElem?_of_occursAt hocc (j := 0) (by omega)
  have h1 := getElem?_of_occursAt hocc hp
  rw [← h01, ← h0, List.getElem?_eq_getElem (by omega), List.getElem?_eq_getElem (by omega)] at h1
  exact List.isChain_iff_getElem.mp h i (by omega) (Option.some.inj h1).symm

/-- Settles O32: neighbouring runs have different values, and both markers begin with two equal bits. -/
theorem alternationLaw : Obligations.AlternationLaw := by
  intro fs s hnone hruns
  rw [debounceLaw fs s hnone]
  have halt := isChain_stableBits hruns
  refine ⟨fun k hk => ?_, fun i => ⟨not_occursAt_of_isChain halt (by decide) rfl i,
    not_occursAt_of_isChain halt (by decide) rfl i⟩⟩
  rw [List.getD_eq_getElem _ _ (by omega), List.getD_eq_getElem _ _ hk]
  exact List.isChain_iff_getElem.mp halt k hk

/-- Runs of at least `k` bits each take `k` of the bits. -/
theorem length_filter_mul_le_sum (k : Nat) (rs : List (Bool × Nat)) :
    (rs.filter fun r => decide (k ≤ r.2)).length * k ≤ (rs.map (·.2)).sum := by
  induction rs with
  | nil => exact (Nat.zero_mul k).le
  | cons r rs ih =>
    rw [List.map_cons, List.sum_cons, List.filter_cons]
    split
    · next hlong =>
      rw [List.length_cons, Nat.succ_mul, Nat.add_comm]
      exact Nat.add_le_add (of_decide_eq_true hlong) ih
    · exact ih.trans (Nat.le_add_left _ _)

/-- The last run takes a bit and gives none. -/
theorem stableBits_length_mul_lt {stable : BitVec 8} {obs : Bits} (h : obs ≠ []) :
    (stableBits stable obs).length * max stable.toNat 1 < obs.length := by
  have hne : runsOf obs ≠ [] := by
    cases obs with
    | nil => exact absurd rfl h
    | cons b t => exact runsOf_cons_ne_nil b t
  have hlast := runsOf_pos obs _ (List.getLast_mem hne)
  have hlong := length_filter_mul_le_sum (max stable.toNat 1) (runsOf obs).dropLast
  calc (stableBits stable obs).length * max stable.toNat 1
      ≤ ((runsOf obs).dropLast.map (·.2)).sum := by rwa [stableBits, List.length_map]
    _ < ((runsOf obs).dropLast.map (·.2)).sum + ((runsOf obs).getLast hne).2 := by omega
    _ = ((runsOf obs).map (·.2)).sum := by
      conv_rhs => rw [← List.dropLast_append_getLast hne]
      rw [List.map_append, List.sum_append, List.map_singleton, List.sum_singleton]
    _ = obs.length := sum_runsOf obs

/-- Settles O33: a session that emits a bit has observations. -/
theorem emittedBitsTakeObservations : Obligations.EmittedBitsTakeObservations := by
  intro fs s hnone hemits
  rw [debounceLaw fs s hnone] at hemits ⊢
  exact stableBits_length_mul_lt fun hobs => hemits (by rw [hobs, stableBits_nil])

end Sys2Proof.Machine
end

section
/-!
The receive session (42 R170 to R182): its two commands, the capture events in every session state, the region
of a frame and its observation, and what no capture event changes.
-/

namespace Sys2Proof.Machine

/-! ### The session commands -/

/-- Settles O10: RX_START's meaning in its two branches. -/
theorem rxStartResult : Obligations.RxStartResult := by
  refine ⟨rfl, fun s => ⟨fun hopen => ?_, fun hidle => ?_⟩⟩
  · exact if_neg hopen
  · exact if_pos hidle

theorem execRxStop_of_open {s : State} (hopen : s.rx.session ≠ .idle) :
    execRxStop s = .next (cmdResult 0x04#8 .accepted
      { s with rx := { s.rx with session := .idle, hold := false } }) := by
  rw [execRxStop, if_neg hopen]

theorem execRxStop_of_idle {s : State} (hidle : s.rx.session = .idle) :
    execRxStop s = .next (cmdResult 0x04#8 .accepted s) := by
  rw [execRxStop, if_pos hidle]

theorem execRxStop_session {s t : State} (h : execRxStop s = .next t) : t.rx.session = .idle := by
  by_cases hidle : s.rx.session = .idle
  · rw [execRxStop_of_idle hidle] at h
    cases h
    exact hidle
  · rw [execRxStop_of_open hidle] at h
    cases h
    rfl

/-- A capture event has no effect in IDLE (42 R179). -/
theorem exec_event_of_idle {s : State} (hidle : s.rx.session = .idle) (e : BitVec 3) (f : Frame) :
    exec (decodeEvent e f) s = .next s := by
  have hopening : s.rx.session ≠ .opening := by rw [hidle]; decide
  have hactive : s.rx.session ≠ .active := by rw [hidle]; decide
  rcases eventCode_cases e with rfl | rfl | rfl | rfl | rfl | rfl | rfl | rfl
  · rfl
  · exact if_neg hopening
  · exact if_neg hopening
  · exact if_neg hactive
  · exact if_neg hactive
  · exact if_pos hidle
  · rfl
  · rfl

theorem chain_congr {r : Result} {f g : State → Result} (h : ∀ t, r = .next t → f t = g t) :
    chain r f = chain r g := by
  cases r with
  | next t => exact h t rfl
  | fault | refused => rfl

/-- A cycle that writes RX_STOP to CMD comes to its RX phase in IDLE (60 R250). -/
theorem rxStop_cycle_session {s t : State} {e : BitVec 3} {f : Frame}
    (h : chain (busPhase (cmdCycle 4#32 e f).bus s) (txPhase s.tx.busy) = .next t) :
    t.rx.session = .idle := by
  obtain ⟨u, hbus, htx⟩ := chain_eq_next.mp h
  have hcmd : accessedReg (writeOf 0x008#16 4#32) = some .cmd := accessedReg_at rfl rfl
  have hstop : execRxStop (respond 0#32 false s) = .next u := (busPhase_write hcmd rfl s).symm.trans hbus
  rw [(txPhase_same htx).rx]
  exact execRxStop_session hstop

/-- Settles O11: RX_STOP's meaning in its two branches; the event of its cycle meets the IDLE it leaves. -/
theorem rxStopResult : Obligations.RxStopResult := by
  refine ⟨rfl, fun s => ⟨execRxStop_of_open, execRxStop_of_idle, fun e f => ?_⟩⟩
  rw [runCycle_eq rfl, runCycle_eq rfl]
  refine chain_congr fun t ht => ?_
  have hidle := rxStop_cycle_session ht
  exact (exec_event_of_idle hidle _ _).trans (exec_event_of_idle hidle _ _).symm

/-! ### Events without a frame -/

/-- Settles O26: each event's meaning in its two branches. -/
theorem sessionEventsResult : Obligations.SessionEventsResult := by
  intro s
  refine ⟨rfl, fun low => rfl, fun hopening => ?_, fun hopening => ?_, fun hopening => ⟨?_, ?_⟩,
    fun hactive => ?_, fun hactive => ⟨?_, fun f => ?_⟩, fun hopen => ?_, fun hidle => ?_⟩
  · exact if_pos hopening
  · exact if_pos hopening
  · exact if_neg hopening
  · exact if_neg hopening
  · exact if_pos hactive
  · exact if_neg hactive
  · exact if_neg hactive
  · exact if_neg hopen
  · exact if_pos hidle

/-! ### The region of a frame and its observation -/

/-- Settles O28: the quotient exceeds THRESH exactly when the sum exceeds the product. -/
theorem observedMeansTheMeanExceeds : Obligations.ObservedMeansTheMeanExceeds := by
  intro thresh sum cnt
  refine ⟨observed_iff thresh sum cnt, fun hcnt => ?_⟩
  rw [observed_iff, lt_div_iff₀ (Nat.cast_pos.mpr hcnt)]
  norm_cast

theorem regionFrom_eq_max (dim hw : Nat) :
    (regionFrom dim hw : Int) = max 0 ((dim / 2 : Nat) - (hw : Int)) := by
  rw [regionFrom]
  omega

theorem regionTo_eq_min (dim hw : Nat) :
    (regionTo dim hw : Int) = min (dim : Int) ((dim / 2 : Nat) + (hw : Int)) := by
  rw [regionTo, Nat.cast_min, Nat.cast_add]

theorem regionSide_eq_max (dim hw : Nat) :
    (regionSide dim hw : Int) = max 0 ((regionTo dim hw : Int) - regionFrom dim hw) := by
  rw [regionSide]
  omega

theorem regionSide_le (dim hw : Nat) : regionSide dim hw ≤ 2 * hw := by
  rw [regionSide, regionTo, regionFrom]
  omega

theorem regionSum_eq_sum_Ico (f : Frame) (hw : Nat) :
    regionSum f hw = ∑ y ∈ Finset.Ico (regionFrom f.h.toNat hw) (regionTo f.h.toNat hw),
      ∑ x ∈ Finset.Ico (regionFrom f.w.toNat hw) (regionTo f.w.toNat hw), (pixelAt f x y).toNat := by
  simp only [Finset.sum_Ico_eq_sum_range]
  rfl

/-- A pixel is at most 255, so the sum is at most 255 for each pixel of the region. -/
theorem regionSum_le (f : Frame) (hw : Nat) : regionSum f hw ≤ regionCount f hw * 255 := by
  have hpixel (x y : Nat) : (pixelAt f x y).toNat ≤ 255 := Nat.le_of_lt_succ (pixelAt f x y).isLt
  have hrow (y : Nat) := Finset.sum_le_card_nsmul
    (Finset.Ico (regionFrom f.w.toNat hw) (regionTo f.w.toNat hw)) (fun x => (pixelAt f x y).toNat) 255
    fun x _ => hpixel x y
  have hsum := Finset.sum_le_card_nsmul
    (Finset.Ico (regionFrom f.h.toNat hw) (regionTo f.h.toNat hw)) _ _ fun y _ => hrow y
  rw [← regionSum_eq_sum_Ico, Nat.card_Ico, Nat.card_Ico, smul_eq_mul, smul_eq_mul] at hsum
  rw [regionCount, Nat.mul_comm (regionSide f.w.toNat hw), Nat.mul_assoc]
  exact hsum

theorem regionCount_le (f : Frame) (hw : BitVec 8) : regionCount f hw.toNat ≤ 260100 := by
  have hside (dim : Nat) : regionSide dim hw.toNat ≤ 510 := by
    have := regionSide_le dim hw.toNat
    have := hw.isLt
    omega
  exact Nat.mul_le_mul (hside _) (hside _)

/-- Settles O27: bounds and sides along each axis, the sum row by row, the widths from sides of at most
510. -/
theorem regionOfAFrame : Obligations.RegionOfAFrame := by
  intro f hw
  have hcount := regionCount_le f hw
  have hsum := regionSum_le f hw.toNat
  refine ⟨regionFrom_eq_max _ _, regionTo_eq_min _ _, regionFrom_eq_max _ _, regionTo_eq_min _ _, ?_,
    regionSum_eq_sum_Ico f hw.toNat, hcount, by omega⟩
  rw [← regionSide_eq_max, ← regionSide_eq_max, ← Nat.cast_mul]
  rfl

/-! ### FRAME, case by case (42 R178 to R182) -/

theorem exec_evtFrame_of_active {s : State} (hactive : s.rx.session = .active) (f : Frame) :
    exec (.evtFrame f) s = .next (assemblerPhase (sampleFrame f s).2 (sampleFrame f s).1) :=
  if_pos hactive

theorem exec_evtFrame_of_not_active {s : State} (hactive : s.rx.session ≠ .active) (f : Frame) :
    exec (.evtFrame f) s = .next s :=
  if_neg hactive

/-- A candidate replaced by another is still a candidate. -/
theorem setCandidate_of_valid {s : State} (hsome : s.rx.candValid = true) (v : Bool) (run : BitVec 8) :
    setCandidate v run s = { s with rx := { s.rx with candVal := v, candRun := run } } := by
  rw [setCandidate, ← hsome]

section Debounce

variable {obs : Bool} {s : State}

theorem debounce_of_none (hnone : s.rx.candValid = false) (sum cnt : Nat) :
    debounce obs sum cnt s = (setCandidate obs 1#8 s, none) := by
  rw [debounce, hnone]
  rfl

theorem debounce_of_same (hsome : s.rx.candValid = true) (hobs : obs = s.rx.candVal) (sum cnt : Nat) :
    debounce obs sum cnt s = ({ s with rx := { s.rx with candRun := nextRun s.rx.candRun } }, none) := by
  rw [debounce, hsome, if_neg (by decide), if_pos hobs, setCandidate_of_valid hsome, hobs]

theorem debounce_of_short (hsome : s.rx.candValid = true) (hobs : obs ≠ s.rx.candVal)
    (hrun : s.rx.candRun.toNat < max s.cfg.stable.toNat 1) (sum cnt : Nat) :
    debounce obs sum cnt s = ({ s with rx := { s.rx with candVal := obs, candRun := 1#8 } }, none) := by
  rw [debounce, hsome, if_neg (by decide), if_neg hobs,
    if_neg (mt (stableRun_iff _ _).mp (Nat.not_le.mpr hrun)), setCandidate_of_valid hsome]

theorem debounce_of_stable (hsome : s.rx.candValid = true) (hobs : obs ≠ s.rx.candVal)
    (hrun : max s.cfg.stable.toNat 1 ≤ s.rx.candRun.toNat) (sum cnt : Nat) :
    debounce obs sum cnt s =
      ({ emit s.rx.candVal sum cnt s with
        rx := { (emit s.rx.candVal sum cnt s).rx with candVal := obs, candRun := 1#8 } },
        some s.rx.candVal) := by
  rw [debounce, hsome, if_neg (by decide), if_neg hobs, if_pos ((stableRun_iff _ _).mpr hrun),
    setCandidate_of_valid (by exact hsome)]

end Debounce

/-- Settles O29: the frame is counted and observed, and its observation debounced in one of four ways. -/
theorem frameEventResult : Obligations.FrameEventResult := by
  intro s f
  refine ⟨fun hactive => exec_evtFrame_of_not_active hactive f, fun hactive => ?_⟩
  rw [exec_evtFrame_of_active hactive, sampleFrame_eq]
  intro cnt sum obs seen
  refine ⟨fun hcnt => ?_, fun hcnt hnone => ?_, fun hcnt hsome hobs => ?_, fun hcnt hsome hobs hrun => ?_,
    fun hcnt hsome hobs hrun => ?_⟩
  · rw [if_pos hcnt]
    rfl
  · rw [if_neg hcnt, debounce_of_none (by exact hnone)]
    rfl
  · rw [if_neg hcnt, debounce_of_same (by exact hsome) (by exact hobs)]
    rfl
  · rw [if_neg hcnt, debounce_of_short (by exact hsome) (by exact hobs) (by exact hrun)]
    rfl
  · rw [if_neg hcnt, debounce_of_stable (by exact hsome) (by exact hobs) (by exact hrun)]
    rfl

/-! ### What no capture event changes -/

/-- What a capture event leaves alone, whichever it is. -/
structure SameButReceiver (s t : State) : Prop where
  cmdStatus : t.cmdStatus = s.cmdStatus
  cfg : t.cfg = s.cfg
  irqEnable : t.irqEnable = s.irqEnable
  tx : t.tx = s.tx
  busResp : t.busResp = s.busResp
  clkIndex : t.clkIndex = s.clkIndex
  freshDraw : t.freshDraw = s.freshDraw
  inputs : t.inputs = s.inputs
  bytes : ∀ a, ¬ inRxWindow a → readMem t.mem a = readMem s.mem a

theorem SameButReceiver.refl (s : State) : SameButReceiver s s := by constructor <;> intros <;> rfl

theorem sampleFrame_sameButReceiver (f : Frame) (s : State) : SameButReceiver s (sampleFrame f s).1 := by
  have h := sampleFrame_same f s
  exact ⟨h.cmdStatus, h.cfg, h.irqEnable, h.tx, h.busResp, h.clkIndex, h.freshDraw, h.inputs,
    fun a _ => by rw [h.mem]⟩

/-- An append touches the receiver only. -/
theorem SameButReceiver.append {s t : State} (h : SameButReceiver s t) (b : Bool) :
    SameButReceiver s (append b t) := by
  have k := append_same b t
  refine ⟨k.cmdStatus.trans h.cmdStatus, k.cfg.trans h.cfg, k.irqEnable.trans h.irqEnable,
    k.tx.trans h.tx, k.busResp.trans h.busResp, k.clkIndex.trans h.clkIndex,
    k.freshDraw.trans h.freshDraw, k.inputs.trans h.inputs, fun a ha => ?_⟩
  rw [append_readMem b t (by unfold inRxWindow at ha; omega), h.bytes a ha]

theorem exec_evtFrame_sameButReceiver {f : Frame} {s t : State} (h : exec (.evtFrame f) s = .next t) :
    SameButReceiver s t := by
  by_cases hactive : s.rx.session = .active
  · rw [exec_evtFrame_of_active hactive] at h
    cases h
    cases (sampleFrame f s).2 with
    | none => exact sampleFrame_sameButReceiver f s
    | some b => exact (sampleFrame_sameButReceiver f s).append b
  · rw [exec_evtFrame_of_not_active hactive] at h
    cases h
    exact .refl s

/-- An event without a frame touches the session, its skip count, ERR and IRQ_STATUS only
(42 R171 to R174, R179). -/
theorem exec_sessionEvent_same {i : Instr} {s t : State} (hevent : isEvent i = true)
    (hframe : ∀ f, i ≠ .evtFrame f) (h : exec i s = .next t) :
    SameButReceiver s t ∧ t.asm = s.asm ∧ t.mem = s.mem := by
  cases i with
  | evtNone | evtReserved =>
    cases h
    exact ⟨.refl s, rfl, rfl⟩
  | evtFrame f => exact absurd rfl (hframe f)
  | evtOpenOk | evtOpenFail | evtFrameFail | evtFatal =>
    simp only [exec, execEvtOpenOk, execEvtOpenFail, execEvtFrameFail, execEvtFatal] at h
    split at h <;> cases h <;>
      exact ⟨⟨rfl, rfl, rfl, rfl, rfl, rfl, rfl, rfl, fun _ _ => rfl⟩, rfl, rfl⟩
  | _ => cases hevent

/-- Settles O30: a FRAME samples and appends; the other events touch the session only. -/
theorem eventsFrame : Obligations.EventsFrame := by
  intro i s t hevent h
  have hsame : SameButReceiver s t := by
    by_cases hframe : ∃ f, i = .evtFrame f
    · obtain ⟨f, rfl⟩ := hframe
      exact exec_evtFrame_sameButReceiver h
    · exact (exec_sessionEvent_same hevent (not_exists.mp hframe) h).1
  obtain ⟨hcmd, hcfg, hirq, htx, hresp, hclk, hdraw, hinputs, hbytes⟩ := hsame
  exact ⟨hcmd, hcfg, hirq, htx, hresp, hclk, hdraw, hinputs, hbytes, fun hframe =>
    (exec_sessionEvent_same hevent hframe h).2⟩

end Sys2Proof.Machine
end

section
/-!
The frame assembler (43 R201 to R212): an append case by case, the truncation of a full buffer, and the
delivery of a frame appended bit by bit behind a buffer that holds no start marker.
-/

namespace Sys2Proof.Machine

/-! ### The buffer -/

theorem pushBit_of_full {buf : Bits} (h : buf.length = 10000) (b : Bool) :
    pushBit buf b = lastBits 5000 (buf ++ [b]) := by
  have hover : Config.params.bufCap < (buf ++ [b]).length := by simp [h]
  rw [pushBit, if_pos hover]

theorem lastBits_suffix (k : Nat) (s : Bits) : lastBits k s <:+ s := List.drop_suffix _ _

/-- An append leaves the buffer with the new bit, or empty after a delivery. -/
theorem append_buf (b : Bool) (s : State) :
    (append b s).asm.buf = pushBit s.asm.buf b ∨ (append b s).asm.buf = [] := by
  rcases append_cases b s with ⟨-, h⟩ | ⟨e, -, -, h⟩ | ⟨bs, -, -, h⟩ <;> rw [h]
  · exact .inl rfl
  · exact .inl rfl
  · exact .inr rfl

/-- Settles O34: the bit is pushed within the capacity, and a full buffer is cut to a suffix. -/
theorem bufferBound : Obligations.BufferBound := by
  intro b s
  refine ⟨?_, fun hroom => pushBit_of_room hroom b, fun hfull => ?_⟩
  · obtain hbuf | hbuf := append_buf b s
    · rw [hbuf]
      exact pushBit_length_le _ _
    · rw [hbuf]
      exact Nat.zero_le _
  · rw [pushBit_of_full hfull]
    refine ⟨?_, lastBits_suffix _ _⟩
    rw [lastBits_length, List.length_append, hfull]
    rfl

/-- Settles O38: whether the marker begins at a position where it fitted before is not changed by a bit
behind it. -/
theorem appendNeverMovesTheStartMarker : Obligations.AppendNeverMovesTheStartMarker := by
  intro buf b i hroom hfind
  obtain ⟨hle, hocc, hleast⟩ := (findIsTheLeastOccurrence _ _ _ _).mp hfind
  rw [pushBit_of_room hroom]
  refine (findIsTheLeastOccurrence _ _ _ _).mpr
    ⟨hle, occursAt_append hocc [b], fun j hj hlt hoccj => hleast j hj hlt ?_⟩
  have hfit := hocc.1
  exact (occursAt_append_iff (by omega) [b]).mp hoccj

/-! ### An append, case by case -/

theorem append_of_short {b : Bool} {s : State} (h : (pushBit s.asm.buf b).length < 16) :
    append b s = { s with asm := { s.asm with buf := pushBit s.asm.buf b } } := by
  rw [append_eq, if_neg (by omega)]

/-- A failed decode is recorded and the buffer kept (43 R203, R205). -/
theorem append_of_error {b : Bool} {s : State} {e : FrameError}
    (h16 : 16 ≤ (pushBit s.asm.buf b).length) (h : decodeFrame (pushBit s.asm.buf b) = .error e) :
    append b s = { s with
      asm := { s.asm with
        buf := pushBit s.asm.buf b, decCount := s.asm.decCount + 1#32
        decCode := decCodeOf (.error e), decPos := decPosOf (.error e) } } := by
  rw [append_eq, if_pos h16, attemptDecode_error h]
  rfl

/-- The assembler after a delivery (43 R203, R204, R206). -/
def deliveredAsm (bs : List Byte) (a : Asm) : Asm :=
  { a with
    buf := [], decCount := a.decCount + 1#32, decCode := .ok, decPos := 0#16
    msgLen := BitVec.ofNat 10 bs.length, msgValid := true, msgCount := a.msgCount + 1#32 }

/-- A successful decode is delivered and clears the buffer (43 R204, R206). -/
theorem append_of_ok {b : Bool} {s : State} {bs : List Byte}
    (h16 : 16 ≤ (pushBit s.asm.buf b).length) (h : decodeFrame (pushBit s.asm.buf b) = .ok bs) :
    append b s = { s with
      irqStatus := s.irqStatus ||| irqMask .rxMsg
      err := if s.asm.msgValid then s.err ||| errMask .msgOverrun else s.err
      mem := writeMem s.mem 0x2000 (mailboxBytes bs)
      asm := deliveredAsm bs s.asm } := by
  rw [append_eq, if_pos h16, attemptDecode_ok h, deliver]
  simp only [mailboxFull_eq, recordDecode_asm]
  cases s.asm.msgValid <;> rfl

/-- RX_MSG after a delivery: the message, then zeros (43 R206). -/
theorem readMem_mailbox {bs : List Byte} (h : bs.length ≤ 624) (mem : Memory) {j : Nat} (hj : j < 624) :
    readMem (writeMem mem 0x2000 (mailboxBytes bs)) (0x2000 + j) = some (bs.getD j 0#8) := by
  rw [readMem_writeMem, mailboxBytes_length h, if_pos (by omega), Nat.add_sub_cancel_left,
    mailboxBytes_getElem? h hj]

theorem readMem_outside_mailbox {bs : List Byte} (h : bs.length ≤ 624) (mem : Memory) {a : Nat}
    (ha : ¬ inRxWindow a) :
    readMem (writeMem mem 0x2000 (mailboxBytes bs)) a = readMem mem a := by
  unfold inRxWindow at ha
  refine readMem_writeMem_of_outside ?_
  rw [mailboxBytes_length h]
  omega

/-- Settles O35: the three cases of an append. -/
theorem appendResult : Obligations.AppendResult := by
  intro b s
  refine ⟨append_of_short, fun e h16 herr => ?_, fun bs h16 hok => ?_⟩
  · refine ⟨decCodeOf (.error e), ?_, ?_⟩
    · rw [append_of_error h16 herr]
      cases e <;> rfl
    · cases e <;> rfl
  · have hlen := decoded_length_le hok
    refine ⟨_, _, append_of_ok h16 hok, fun j hj => readMem_mailbox hlen s.mem hj,
      fun a ha => readMem_outside_mailbox hlen s.mem ha, rfl, rfl, hlen, ?_, rfl, rfl, rfl, rfl⟩
    rw [deliveredAsm, BitVec.toNat_ofNat]
    omega

/-! ### A frame behind other bits -/

theorem encodeFrame_getElem?_of_lt_four (m : List Byte) {k : Nat} (hk : k < 4) :
    (encodeFrame m)[k]? = some true := by
  have hones : ∀ j < 4, Config.params.startMarker.getD j false = true := by decide
  rw [encodeFrame_getElem? m (by omega), frameBit_start _ _ (by omega), hones k hk]

/-- No start marker straddles a frame's beginning: a zero of its second half would be one of the four ones
the frame begins with (43 R210). -/
theorem not_occursAt_startMarker_before_frame {x : Bits}
    (hx : ∀ i, ¬ occursAt x Config.params.startMarker i) (m : List Byte) {i : Nat} (hi : i < x.length) :
    ¬ occursAt (x ++ encodeFrame m) Config.params.startMarker i := by
  intro h
  obtain hinside | hstraddles := le_or_gt (i + 8) x.length
  · exact hx i ((occursAt_append_iff hinside _).mp h)
  · obtain ⟨j, hj⟩ := Nat.exists_eq_add_of_lt hi
    obtain ⟨k, hk, hzero, hfit⟩ : ∃ k < 4, 4 ≤ j + 1 + k ∧ j + 1 + k < 8 := ⟨3 - j, by omega⟩
    have hzeros : ∀ n < 8, 4 ≤ n → Config.params.startMarker[n]? = some false := by decide
    have hat : i + (j + 1 + k) = x.length + k := by omega
    have hbit := getElem?_of_occursAt h hfit
    rw [hzeros _ hfit hzero, hat, List.getElem?_append_right (Nat.le_add_right _ _),
      Nat.add_sub_cancel_left, encodeFrame_getElem?_of_lt_four m hk] at hbit
    cases hbit

/-- A decode that succeeds found a start marker and an end marker behind it (40 R111 to R113). -/
theorem exists_markers_of_decodeFrame_ok {bits : Bits} {bs : List Byte} (h : decodeFrame bits = .ok bs) :
    ∃ s e, s + 8 ≤ e ∧ occursAt bits Config.params.startMarker s ∧
      occursAt bits Config.params.endMarker e := by
  cases hs : findBits bits Config.params.startMarker 0 with
  | none => rw [decodeFrame_of_no_start hs] at h; cases h
  | some s =>
    cases he : findBits bits Config.params.endMarker (s + 8) with
    | none => rw [decodeFrame_of_no_end hs he] at h; cases h
    | some e =>
      obtain ⟨-, hstart, -⟩ := (findIsTheLeastOccurrence _ _ _ _).mp hs
      obtain ⟨hle, hend, -⟩ := (findIsTheLeastOccurrence _ _ _ _).mp he
      exact ⟨s, e, hle, hstart, hend⟩

/-- A frame cut short does not decode, whatever stands before it, as long as no start marker does: the
end marker would lie in the frame before the frame's own. -/
theorem decodeFrame_ne_ok_of_no_start_before {x p : Bits} {m : List Byte}
    (hx : ∀ i, ¬ occursAt x Config.params.startMarker i) (hp : p <+: encodeFrame m)
    (hlen : p.length < 16 + 16 * m.length) (bs : List Byte) : decodeFrame (x ++ p) ≠ .ok bs := by
  intro h
  obtain ⟨s, e, hse, hstart, hend⟩ := exists_markers_of_decodeFrame_ok h
  obtain ⟨t, ht⟩ := hp
  have hframe {q : Bits} {i : Nat} (hocc : occursAt (x ++ p) q i) : occursAt (x ++ encodeFrame m) q i := by
    rw [← ht, ← List.append_assoc]
    exact occursAt_append hocc t
  have hs : x.length ≤ s :=
    Nat.le_of_not_lt fun hlt => not_occursAt_startMarker_before_frame hx m hlt (hframe hstart)
  obtain ⟨d, rfl⟩ := Nat.exists_eq_add_of_le (show x.length + 8 ≤ e by omega)
  have hfit : x.length + 8 + d + 8 ≤ (x ++ p).length := hend.1
  rw [List.length_append] at hfit
  have hend := hframe hend
  rw [Nat.add_assoc, occursAt_append_add] at hend
  exact not_occursAt_endMarker_of_payload m (by omega) hend

/-! ### The delivery of a frame -/

section FrameIntoBuffer

variable {s : State} {m : List Byte}
  (hx : ∀ i, ¬ occursAt s.asm.buf Config.params.startMarker i)
  (hroom : s.asm.buf.length + (16 + 16 * m.length) ≤ 10000)

include hx

/-- No proper beginning of the frame makes the buffer decode. -/
theorem not_decoded_before_last_bit {k : Nat} (hk : k < 16 + 16 * m.length) (p : Bits)
    (hp : p <+: (encodeFrame m).take k) (bs : List Byte) : decodeFrame (s.asm.buf ++ p) ≠ .ok bs := by
  have hlen := hp.length_le
  rw [List.length_take] at hlen
  exact decodeFrame_ne_ok_of_no_start_before hx (hp.trans (List.take_prefix _ _)) (by omega) bs

include hroom

/-- Before its last bit a frame only fills the buffer (43 R210). -/
theorem appendAll_take_encodeFrame {k : Nat} (hk : k < 16 + 16 * m.length) :
    (appendAll ((encodeFrame m).take k) s).asm.buf = s.asm.buf ++ (encodeFrame m).take k ∧
      (appendAll ((encodeFrame m).take k) s).asm.msgCount = s.asm.msgCount := by
  refine appendAll_of_not_decoded ?_ (not_decoded_before_last_bit hx hk)
  rw [List.length_take]
  omega

/-- The last bit of a frame delivers its message (43 R210). -/
theorem appendAll_encodeFrame_delivers_behind (hwf : wellFormedUtf8 m = true) :
    Delivers m s (appendAll (encodeFrame m) s) := by
  have hlen := encodeFrame_length m
  have hdecode : decodeFrame (s.asm.buf ++ encodeFrame m) = .ok m := by
    have h := decodeFrame_around (fun i => not_occursAt_startMarker_before_frame hx m (i := i)) []
    rwa [List.append_nil, decodePayload_payloadBits, if_pos hwf] at h
  have hne : encodeFrame m ≠ [] := List.ne_nil_of_length_pos (by omega)
  have hsplit : encodeFrame m =
      (encodeFrame m).take (15 + 16 * m.length) ++ [(encodeFrame m).getLast hne] := by
    have h := (List.dropLast_append_getLast hne).symm
    rwa [List.dropLast_eq_take, hlen, show 16 + 16 * m.length - 1 = 15 + 16 * m.length by omega] at h
  rw [hsplit]
  refine appendAll_delivers ?_ (not_decoded_before_last_bit hx (by omega)) ?_
  · rw [List.length_take]
    omega
  · rw [← hsplit, hdecode]

end FrameIntoBuffer

/-- Settles O36: a frame cut short fills the buffer, the whole frame is delivered. -/
theorem deliveryAtTheLastBit : Obligations.DeliveryAtTheLastBit := by
  intro s m hwf hx hroom
  constructor
  · intro k hk
    exact (appendAll_take_encodeFrame hx hroom hk).symm
  · obtain ⟨hbuf, hvalid, hlen, hcount, hbytes⟩ := appendAll_encodeFrame_delivers_behind hx hroom hwf
    exact ⟨hbuf, hvalid, hlen, hcount, hbytes⟩

/-- Settles O37: each frame is delivered into an empty buffer, and the bits behind the first frame do not
matter to its decode. -/
theorem backToBackFramesAreBothDelivered : Obligations.BackToBackFramesAreBothDelivered := by
  intro s m₁ m₂ hwf₁ hwf₂ hbuf hm₁ hm₂
  obtain ⟨hbuf₁, -, hlen₁, hcount₁, hbytes₁⟩ := appendAll_encodeFrame_delivers hwf₁ hm₁ hbuf
  obtain ⟨hbuf₂, -, hlen₂, hcount₂, hbytes₂⟩ := appendAll_encodeFrame_delivers hwf₂ hm₂ hbuf₁
  dsimp only
  rw [appendAll_append]
  refine ⟨?_, ⟨hbuf₁, hcount₁, hlen₁, hbytes₁⟩, hbuf₂, ?_, hlen₂, hbytes₂⟩
  · have h := decodeFrame_around (x := []) (m := m₁) (fun i hi => absurd hi (Nat.not_lt_zero i))
      (encodeFrame m₂)
    rwa [List.nil_append, decodePayload_payloadBits, if_pos hwf₁] at h
  · rw [hcount₂, hcount₁, BitVec.add_assoc]
    rfl

end Sys2Proof.Machine
end

section
/-!
The command words (44 R220 to R225): the words that only record their result, what each word replaces in the
state, and an acknowledgement in the cycle of a FRAME event.
-/

namespace Sys2Proof.Machine

/-! ### Illegal words -/

theorem illegalWord_eq (op : BitVec 8) (s : State) :
    illegalWord op s =
      { s with cmdStatus := ⟨.illegal, op⟩, irqStatus := s.irqStatus ||| 0x20#6 } := rfl

/-- The free bits of a reserved row stand below the bits that name the row (30 R88). -/
theorem or_setWidth_eq_add {k : Nat} {row : BitVec 8} (hrow : ∀ j, j < k → row.getLsbD j = false)
    (low : BitVec k) : row ||| low.setWidth 8 = row + low.setWidth 8 := by
  refine (BitVec.add_eq_or_of_and_eq_zero row (low.setWidth 8) ?_).symm
  ext j hj
  rw [BitVec.getElem_and, BitVec.getElem_setWidth, BitVec.getElem_zero, ← BitVec.getLsbD_eq_getElem]
  by_cases hlt : j < k
  · rw [hrow j hlt, Bool.false_and]
  · rw [BitVec.getLsbD_of_ge low j (not_lt.mp hlt), Bool.and_false]

/-- A reserved row performs the ILLEGAL result with the OPCODE that its free bits name (44 R224). -/
theorem reservedRow_eq {k : Nat} {row : BitVec 8} (hrow : ∀ j, j < k → row.getLsbD j = false)
    (low : BitVec k) (s : State) :
    (.next (illegalWord (row ||| low.setWidth 8) s) : Result) = .next { s with
      cmdStatus := ⟨.illegal, row + low.setWidth 8⟩, irqStatus := s.irqStatus ||| 0x20#6 } := by
  rw [or_setWidth_eq_add hrow, illegalWord_eq]

/-- Settles O7: one lemma for the six reserved rows; ILLEGAL_RSV records its OPCODE as it is. -/
theorem reservedWordsComplete : Obligations.ReservedWordsComplete := fun s =>
  ⟨fun low => reservedRow_eq (by decide) low s, fun low => reservedRow_eq (by decide) low s,
    fun low => reservedRow_eq (by decide) low s, fun low => reservedRow_eq (by decide) low s,
    fun low => reservedRow_eq (by decide) low s, fun low => reservedRow_eq (by decide) low s,
    fun _ op => congrArg Host.Outcome.next (illegalWord_eq op s)⟩

/-! ### What a command word replaces -/

theorem exec_illegal {i : Instr} (h : isIllegalWord i = true) :
    ∃ op, ∀ s, exec i s = .next (illegalWord op s) := by
  cases i with
  | reserved0607 | reserved080F | reserved101F | reserved203F | reserved407F | reserved80FF
  | illegalRsv => exact ⟨_, fun _ => rfl⟩
  | _ => cases h

theorem isCommand_of_isIllegalWord {i : Instr} (h : isIllegalWord i = true) : isCommand i = false := by
  cases i with
  | nop | txSend | txStop | rxStart | rxStop | rxMsgAck => cases h
  | _ => rfl

/-- TX_SEND leaves the receive side alone (41 R140, R144). -/
theorem txSend_replaces (s : State) : ∃ status irq draw tx, txSend s =
    { s with cmdStatus := status, irqStatus := irq, freshDraw := draw, tx := tx } := by
  unfold txSend
  split_ifs <;> exact ⟨_, _, _, _, rfl⟩

theorem execTxStop_replaces {s t : State} (h : execTxStop s = .next t) :
    ∃ status tx, t = { s with cmdStatus := status, tx := tx } := by
  cases h
  split <;> exact ⟨_, _, rfl⟩

theorem execRxStart_replaces {s t : State} (h : execRxStart s = .next t) :
    ∃ status rx asm, t = { s with cmdStatus := status, rx := rx, asm := asm } := by
  unfold execRxStart at h
  split at h <;> cases h <;> exact ⟨_, _, _, rfl⟩

theorem execRxStop_replaces {s t : State} (h : execRxStop s = .next t) :
    ∃ status rx, t = { s with cmdStatus := status, rx := rx } := by
  cases h
  split <;> exact ⟨_, _, rfl⟩

/-- The fields of the state that each command word writes (44 R220, R222 to R225). -/
theorem exec_command_replaces {i : Instr} {s t : State}
    (hkind : isCommand i = true ∨ isIllegalWord i = true) (h : exec i s = .next t) :
    (i = .nop ∧ ∃ status, t = { s with cmdStatus := status }) ∨
    (i = .txSend ∧ ∃ status irq draw tx,
      t = { s with cmdStatus := status, irqStatus := irq, freshDraw := draw, tx := tx }) ∨
    (i = .txStop ∧ ∃ status tx, t = { s with cmdStatus := status, tx := tx }) ∨
    (i = .rxStart ∧ ∃ status rx asm, t = { s with cmdStatus := status, rx := rx, asm := asm }) ∨
    (i = .rxStop ∧ ∃ status rx, t = { s with cmdStatus := status, rx := rx }) ∨
    (i = .rxMsgAck ∧ ∃ status asm, t = { s with cmdStatus := status, asm := asm }) ∨
    (isIllegalWord i = true ∧ ∃ status irq, t = { s with cmdStatus := status, irqStatus := irq }) := by
  obtain hcommand | hillegal := hkind
  · cases i with
    | nop => cases h; exact .inl ⟨rfl, _, rfl⟩
    | txSend => cases h; exact .inr (.inl ⟨rfl, txSend_replaces s⟩)
    | txStop => exact .inr (.inr (.inl ⟨rfl, execTxStop_replaces h⟩))
    | rxStart => exact .inr (.inr (.inr (.inl ⟨rfl, execRxStart_replaces h⟩)))
    | rxStop => exact .inr (.inr (.inr (.inr (.inl ⟨rfl, execRxStop_replaces h⟩))))
    | rxMsgAck => cases h; exact .inr (.inr (.inr (.inr (.inr (.inl ⟨rfl, _, _, rfl⟩)))))
    | _ => cases hcommand
  · obtain ⟨op, hexec⟩ := exec_illegal hillegal
    rw [hexec] at h
    cases h
    exact .inr (.inr (.inr (.inr (.inr (.inr ⟨hillegal, _, _, rfl⟩)))))

/-- Settles O12: what is not among the fields a command word writes is left alone. -/
theorem commandsFrame : Obligations.CommandsFrame := by
  intro i s t hkind h
  obtain ⟨rfl, _, rfl⟩ | ⟨rfl, _, _, _, _, rfl⟩ | ⟨rfl, _, _, rfl⟩ | ⟨rfl, _, _, _, rfl⟩ |
    ⟨rfl, _, _, rfl⟩ | ⟨rfl, _, _, rfl⟩ | ⟨hillegal, _, _, rfl⟩ := exec_command_replaces hkind h
  case inr.inr.inr.inr.inr.inr => simp [isCommand_of_isIllegalWord hillegal]
  all_goals simp

/-! ### An acknowledgement in the cycle of a FRAME event -/

/-- From `s` to `t` no overrun was recorded, and a message that was delivered is valid (44 R223). -/
def NoOverrun (s t : State) : Prop :=
  t.err = s.err ∧ (t.asm.msgCount ≠ s.asm.msgCount → t.asm.msgValid = true)

theorem NoOverrun.of_eq {s t : State} (herr : t.err = s.err)
    (hcount : t.asm.msgCount = s.asm.msgCount) : NoOverrun s t :=
  ⟨herr, fun hne => absurd hcount hne⟩

/-- A delivery into an empty mailbox is no overrun (43 R206). -/
theorem append_noOverrun (b : Bool) {s : State} (hempty : s.asm.msgValid = false) :
    NoOverrun s (append b s) := by
  rcases append_cases b s with ⟨-, e⟩ | ⟨err, -, -, e⟩ | ⟨bs, -, -, e⟩ <;> rw [e]
  · exact .of_eq rfl rfl
  · exact .of_eq rfl rfl
  · refine ⟨?_, fun _ => ?_⟩
    · simp [hempty]
    · simp

theorem exec_evtFrame_noOverrun {f : Frame} {s t : State} (hempty : s.asm.msgValid = false)
    (h : exec (.evtFrame f) s = .next t) : NoOverrun s t := by
  by_cases hactive : s.rx.session = .active
  · rw [exec_evtFrame_of_active hactive] at h
    cases h
    have hsame := sampleFrame_same f s
    cases (sampleFrame f s).2 with
    | none => exact .of_eq hsame.err (by rw [assemblerPhase, hsame.asm])
    | some b =>
      have happend := append_noOverrun b (s := (sampleFrame f s).1) (by rw [hsame.asm, hempty])
      rwa [NoOverrun, hsame.err, hsame.asm] at happend
  · rw [exec_evtFrame_of_not_active hactive] at h
    cases h
    exact .of_eq rfl rfl

/-- The bus phase of a cycle that writes a word to CMD runs the word (44 R220). -/
theorem busPhase_cmdCycle (w : Word) (e : BitVec 3) (f : Frame) (s : State) :
    busPhase (cmdCycle w e f).bus s = exec (decodeCommand w) (respond 0#32 false s) := by
  have hcmd : accessedReg (writeOf 0x008#16 w) = some .cmd := accessedReg_at rfl rfl
  exact busPhase_write hcmd rfl s

/-- A cycle that acknowledges the message and presents a frame comes to its RX phase with an empty mailbox
(60 R250). -/
theorem rxMsgAck_cycle_noOverrun {f : Frame} {s t : State}
    (h : runCycle (cmdCycle 5#32 3#3 f) s = .next t) : NoOverrun s t := by
  obtain ⟨u, v, hbus, htx, hframe⟩ := (runCycle_eq_next rfl).mp h
  rw [busPhase_cmdCycle] at hbus
  cases hbus
  have hsame := txPhase_same htx
  have hdelivery := exec_evtFrame_noOverrun (by rw [hsame.asm]; rfl) hframe
  rwa [NoOverrun, hsame.err, hsame.asm] at hdelivery

/-- Settles O6: the two commands by their meaning; the bus phase empties the mailbox before the frame. -/
theorem nopAndMessageAckResult : Obligations.NopAndMessageAckResult :=
  ⟨rfl, rfl, fun _ => ⟨rfl, rfl, fun _ _ h => rxMsgAck_cycle_noOverrun h⟩⟩

end Sys2Proof.Machine
end

section
/-!
The flags of a cycle and the order of its phases (60 R243 to R251): what a capture event and a TX phase do does
not depend on the flags that are already raised, nor on each other, and a raised flag falls by a host's write or
a reset only.
-/

namespace Sys2Proof.Machine

/-! ### Raised flags -/

/-- Every bit of `x` is still 1 in `y`. -/
def KeepsBits {n : Nat} (x y : BitVec n) : Prop := x &&& y = x

theorem KeepsBits.refl {n : Nat} (x : BitVec n) : KeepsBits x x := BitVec.and_self

theorem KeepsBits.trans {n : Nat} {x y z : BitVec n} (h : KeepsBits x y) (k : KeepsBits y z) :
    KeepsBits x z := by
  unfold KeepsBits at *
  rw [← h, BitVec.and_assoc, k]

theorem keepsBits_or {n : Nat} (x y : BitVec n) : KeepsBits x (x ||| y) := by
  ext i hi
  rw [BitVec.getElem_and, BitVec.getElem_or]
  cases x[i] <;> rfl

theorem keepsBits_or_right {n : Nat} (x y : BitVec n) : KeepsBits y (x ||| y) := by
  rw [BitVec.or_comm]
  exact keepsBits_or y x

/-- No bit of IRQ_STATUS and no bit of ERR falls from `s` to `t` (60 R247). -/
structure KeepsFlags (s t : State) : Prop where
  irq : KeepsBits s.irqStatus t.irqStatus
  err : KeepsBits s.err t.err

theorem KeepsFlags.of_eq {s t : State} (hirq : t.irqStatus = s.irqStatus) (herr : t.err = s.err) :
    KeepsFlags s t := by
  constructor
  · rw [hirq]
    exact .refl _
  · rw [herr]
    exact .refl _

theorem KeepsFlags.trans {s t u : State} (h : KeepsFlags s t) (k : KeepsFlags t u) : KeepsFlags s u :=
  ⟨h.irq.trans k.irq, h.err.trans k.err⟩

/-! ### What a receive phase does not depend on -/

/-- `s` beside another sequencer and another bus response, and with the flags `irq` and `err` raised: what a
receive phase neither reads nor writes, but for the flags it raises itself (60 R250). -/
def overlay (tx : Tx) (resp : Option BusResp) (irq : BitVec 6) (err : BitVec 3) (s : State) : State :=
  { s with tx := tx, busResp := resp, irqStatus := s.irqStatus ||| irq, err := s.err ||| err }

/-- The state with no flag raised. -/
def clearFlags (s : State) : State := { s with irqStatus := 0#6, err := 0#3 }

theorem overlay_clearFlags (s : State) :
    overlay s.tx s.busResp s.irqStatus s.err (clearFlags s) = s := by
  simp only [overlay, clearFlags, BitVec.zero_or]

section Overlay

variable (tx : Tx) (resp : Option BusResp) (irq : BitVec 6) (err : BitVec 3)

@[simp] theorem overlay_cfg (s : State) : (overlay tx resp irq err s).cfg = s.cfg := rfl
@[simp] theorem overlay_rx (s : State) : (overlay tx resp irq err s).rx = s.rx := rfl
@[simp] theorem overlay_asm (s : State) : (overlay tx resp irq err s).asm = s.asm := rfl

theorem keepsFlags_overlay (s : State) : KeepsFlags s (overlay tx resp irq err s) :=
  ⟨keepsBits_or _ _, keepsBits_or _ _⟩

theorem setIrq_overlay (b : Irq) (s : State) :
    setIrq b (overlay tx resp irq err s) = overlay tx resp irq err (setIrq b s) := by
  simp only [setIrq, overlay, BitVec.or_assoc, BitVec.or_comm irq]

theorem setErr_overlay (c : ErrCause) (s : State) :
    setErr c (overlay tx resp irq err s) = overlay tx resp irq err (setErr c s) := by
  simp only [setErr, overlay, BitVec.or_assoc, BitVec.or_comm err]

theorem deliver_overlay (bs : List Byte) (s : State) :
    deliver bs (overlay tx resp irq err s) = overlay tx resp irq err (deliver bs s) := by
  unfold deliver
  rw [setErr_overlay, ← setIrq_overlay, overlay_asm]
  cases mailboxFull s.asm <;> rfl

theorem attemptDecode_overlay (s : State) :
    attemptDecode (overlay tx resp irq err s) = overlay tx resp irq err (attemptDecode s) := by
  cases hdecode : decodeFrame s.asm.buf with
  | error e =>
    rw [attemptDecode_error hdecode, attemptDecode_error (by exact hdecode)]
    rfl
  | ok bs =>
    rw [attemptDecode_ok hdecode, attemptDecode_ok (by exact hdecode)]
    exact congrArg (fun t : State => { t with asm := { t.asm with buf := [] } })
      (deliver_overlay tx resp irq err bs (recordDecode (.ok bs) s))

theorem append_overlay (b : Bool) (s : State) :
    append b (overlay tx resp irq err s) = overlay tx resp irq err (append b s) := by
  rw [append_eq, append_eq, overlay_asm]
  split
  · exact attemptDecode_overlay tx resp irq err
      { s with asm := { s.asm with buf := pushBit s.asm.buf b } }
  · rfl

theorem assemblerPhase_overlay (b : Option Bool) (s : State) :
    assemblerPhase b (overlay tx resp irq err s) = overlay tx resp irq err (assemblerPhase b s) := by
  cases b with
  | none => rfl
  | some b => exact append_overlay tx resp irq err b s

theorem emit_overlay (b : Bool) (sum cnt : Nat) (s : State) :
    emit b sum cnt (overlay tx resp irq err s) = overlay tx resp irq err (emit b sum cnt s) := by
  unfold emit
  rw [← setIrq_overlay]
  rfl

theorem debounce_overlay (obs : Bool) (sum cnt : Nat) (s : State) :
    debounce obs sum cnt (overlay tx resp irq err s) =
      (overlay tx resp irq err (debounce obs sum cnt s).1, (debounce obs sum cnt s).2) := by
  unfold debounce
  rw [overlay_rx, overlay_cfg, emit_overlay]
  split_ifs <;> rfl

theorem setLastObs_countFrame_overlay (obs : Bool) (s : State) :
    setLastObs obs (countFrame (overlay tx resp irq err s)) =
      overlay tx resp irq err (setLastObs obs (countFrame s)) := rfl

theorem sampleFrame_overlay (f : Frame) (s : State) :
    sampleFrame f (overlay tx resp irq err s) =
      (overlay tx resp irq err (sampleFrame f s).1, (sampleFrame f s).2) := by
  rw [sampleFrame_eq, sampleFrame_eq, overlay_cfg, setLastObs_countFrame_overlay, debounce_overlay]
  split <;> rfl

theorem failSession_overlay (c : ErrCause) (s : State) :
    failSession c (overlay tx resp irq err s) = overlay tx resp irq err (failSession c s) := by
  unfold failSession
  rw [← setIrq_overlay, ← setErr_overlay]
  rfl

/-- A capture event runs the same beside another transmit side, and raises the same flags. -/
theorem exec_event_overlay {i : Instr} {s t : State} (hevent : isEvent i = true)
    (h : exec i s = .next t) :
    exec i (overlay tx resp irq err s) = .next (overlay tx resp irq err t) := by
  cases i with
  | evtNone | evtReserved =>
    cases h
    rfl
  | evtOpenOk | evtFrameFail =>
    simp only [exec, execEvtOpenOk, execEvtFrameFail] at h ⊢
    rw [overlay_rx]
    split at h <;> cases h
    · rw [if_pos ‹_›]
      rfl
    · rw [if_neg ‹_›]
  | evtOpenFail | evtFatal =>
    simp only [exec, execEvtOpenFail, execEvtFatal] at h ⊢
    rw [overlay_rx, failSession_overlay]
    split at h <;> cases h
    · rw [if_pos ‹_›]
    · rw [if_neg ‹_›]
  | evtFrame f =>
    simp only [exec, execEvtFrame] at h ⊢
    rw [overlay_rx, sampleFrame_overlay, assemblerPhase_overlay]
    split at h <;> cases h
    · rw [if_pos ‹_›]
    · rw [if_neg ‹_›]
  | _ => cases hevent

end Overlay

theorem append_keepsFlags (b : Bool) (s : State) : KeepsFlags s (append b s) := by
  have h := append_overlay s.tx s.busResp s.irqStatus s.err b (clearFlags s)
  rw [overlay_clearFlags] at h
  rw [h]
  exact ⟨keepsBits_or_right _ _, keepsBits_or_right _ _⟩

theorem appendAll_keepsFlags (bs : Bits) (s : State) : KeepsFlags s (appendAll bs s) := by
  induction bs generalizing s with
  | nil => exact .of_eq rfl rfl
  | cons b bs ih => exact (append_keepsFlags b s).trans (ih (append b s))

theorem exec_event_keepsFlags {i : Instr} {s t : State} (hevent : isEvent i = true)
    (h : exec i s = .next t) : KeepsFlags s t := by
  obtain ⟨u, hu⟩ := exec_next i (clearFlags s)
  have hover := exec_event_overlay s.tx s.busResp s.irqStatus s.err hevent hu
  rw [overlay_clearFlags, h] at hover
  cases hover
  exact ⟨keepsBits_or_right _ _, keepsBits_or_right _ _⟩

theorem isEvent_decodeEvent (e : BitVec 3) (f : Frame) : isEvent (decodeEvent e f) = true := by
  rcases eventCode_cases e with rfl | rfl | rfl | rfl | rfl | rfl | rfl | rfl <;> rfl

/-! ### What the TX phase depends on -/

theorem SameSend.timerStart {s t : State} (h : SameSend s t) : timerStart t = timerStart s := by
  rw [Machine.timerStart, Machine.timerStart, h.bitPeriod]

theorem eq_overlay_of_tx {tx : Tx} (u : State) :
    { u with tx := tx } = overlay tx u.busResp 0#6 0#3 u := by
  simp only [overlay, BitVec.or_zero]

theorem eq_overlay_of_setIrq {tx : Tx} (b : Irq) (u : State) :
    setIrq b { u with tx := tx } = overlay tx u.busResp (irqMask b) 0#3 u := by
  simp only [overlay, setIrq, BitVec.or_zero]

section TxPhase

variable {s t : State} (hsame : SameSend s t) (htx : t.tx = s.tx)

include htx

theorem endSend_of_sameTx : endSend t = overlay (endSend s).tx t.busResp (irqMask .txDone) 0#3 t := by
  rw [endSend, endSend, htx]
  exact eq_overlay_of_setIrq .txDone t

include hsame

theorem startGuard_of_sameSend : startGuard t = overlay (startGuard s).tx t.busResp 0#6 0#3 t := by
  rw [startGuard, startGuard, hsame.timerStart, htx]
  exact eq_overlay_of_tx t

theorem startNextBit_of_sameSend (hlen : s.tx.len.toNat ≤ 2000) :
    startNextBit t = overlay (startNextBit s).tx t.busResp (irqMask .txBit) 0#3 t := by
  have hbit := hsame.sendBit hlen
  rw [htx] at hbit
  rw [startNextBit, startNextBit, hsame.timerStart, htx, hbit]
  exact eq_overlay_of_setIrq .txBit t

/-- The TX phase depends on the sequencer, CLK_PER_MS and the bytes of TX_MSG only: in two states that agree in
them it replaces the sequencer by the same one and raises the same interrupts, or it stops in both
(60 R250). -/
theorem txPhase_of_sameSend (b : Bool) :
    (txPhase b s = .fault .sequencerOutsideFrame ∧ txPhase b t = .fault .sequencerOutsideFrame) ∨
    ∃ tx irq, txPhase b s = .next (overlay tx s.busResp irq 0#3 s) ∧
      txPhase b t = .next (overlay tx t.busResp irq 0#3 t) := by
  have hrefl := SameSend.refl s
  rcases txPhase_cases b s with ⟨rfl, e⟩ | ⟨rfl, htimer, e⟩ | ⟨rfl, htimer, hphase, hend, e⟩ |
    ⟨rfl, htimer, hphase, hend, hin, e⟩ | ⟨rfl, htimer, hphase, e⟩ | ⟨rfl, htimer, hphase, hend, hin, e⟩ <;>
    rw [e]
  · refine .inr ⟨s.tx, 0#6, congrArg _ (eq_overlay_of_tx s), ?_⟩
    rw [txPhase_idle, ← htx, ← eq_overlay_of_tx t]
  · refine .inr ⟨_, 0#6, congrArg _ (eq_overlay_of_tx s), ?_⟩
    rw [txPhase_count (by rwa [htx]), htx, eq_overlay_of_tx t]
  · refine .inr ⟨_, 0#6, congrArg _ (startGuard_of_sameSend hrefl rfl), ?_⟩
    rw [← startGuard_of_sameSend hsame htx]
    simp [txPhase, periodEnd, htx, htimer, hphase, hend]
  · have hlen := ((nextBitInFrame_iff _).mp hin).1
    refine .inr ⟨_, _, congrArg _ (startNextBit_of_sameSend hrefl rfl hlen), ?_⟩
    rw [← startNextBit_of_sameSend hsame htx hlen]
    simp [txPhase, periodEnd, htx, htimer, hphase, hend, hin]
  · refine .inr ⟨_, _, congrArg _ (endSend_of_sameTx rfl), ?_⟩
    rw [← endSend_of_sameTx htx]
    simp [txPhase, periodEnd, htx, htimer, hphase]
  · exact .inl ⟨rfl, by simp [txPhase, periodEnd, htx, htimer, hphase, hend, hin]⟩

end TxPhase

theorem txPhase_keepsFlags {b : Bool} {s t : State} (h : txPhase b s = .next t) : KeepsFlags s t := by
  obtain ⟨e, -⟩ | ⟨tx, irq, e, -⟩ := txPhase_of_sameSend (.refl s) rfl b <;> rw [e] at h <;> cases h
  exact keepsFlags_overlay ..

theorem txPhases_keepsFlags {n : Nat} {s t : State} (h : txPhases n s = .next t) : KeepsFlags s t := by
  induction n generalizing s with
  | zero =>
    cases h
    exact .of_eq rfl rfl
  | succ n ih =>
    obtain ⟨u, hu, ht⟩ := chain_eq_next.mp h
    exact (txPhase_keepsFlags hu).trans (ih ht)

/-! ### What the bus phase clears -/

theorem txSend_keepsFlags (s : State) : KeepsFlags s (txSend s) := by
  unfold txSend
  split_ifs
  · exact .of_eq rfl rfl
  all_goals exact ⟨keepsBits_or _ _, .refl _⟩

/-- No command clears a flag (60 R247). -/
theorem exec_command_keepsFlags {w : Word} {s t : State} (h : exec (decodeCommand w) s = .next t) :
    KeepsFlags s t := by
  obtain ⟨-, hcommand⟩ | ⟨-, -, hillegal⟩ :=
    command_or_illegal (wellFormed_decodeCommand w) (encode_decodeCommand w)
  · by_cases hsend : decodeCommand w = .txSend
    · rw [hsend] at h
      cases h
      exact txSend_keepsFlags s
    · obtain ⟨-, -, herr, -, -, -, -, -, -, -, hirq⟩ := commandsFrame _ s t (.inl hcommand) h
      exact .of_eq (hirq hcommand hsend) herr
  · rw [hillegal] at h
    cases h
    exact ⟨keepsBits_or _ _, .refl _⟩

/-- From `s` to `t` a bit of IRQ_STATUS or ERR falls only where that register is `written`. -/
structure ClearsOnly (written : Reg → Prop) (s t : State) : Prop where
  irq : ¬ written .irqStatus → KeepsBits s.irqStatus t.irqStatus
  err : ¬ written .err → KeepsBits s.err t.err

theorem KeepsFlags.clearsOnly {written : Reg → Prop} {s t : State} (h : KeepsFlags s t) :
    ClearsOnly written s t :=
  ⟨fun _ => h.irq, fun _ => h.err⟩

theorem ClearsOnly.trans {written : Reg → Prop} {s t u : State} (h : ClearsOnly written s t)
    (k : KeepsFlags t u) : ClearsOnly written s u :=
  ⟨fun hno => (h.irq hno).trans k.irq, fun hno => (h.err hno).trans k.err⟩

theorem unlessBusy_keepsFlags {s t : State} (h : KeepsFlags s t) : KeepsFlags s (unlessBusy s t) := by
  obtain e | ⟨-, e⟩ := unlessBusy_cases s t <;> rw [e]
  · exact .of_eq rfl rfl
  · exact h

/-- A write clears flags of the register it names only. -/
theorem writeReg_clearsOnly {r : Reg} {w : Word} {s t : State} (h : writeReg r w s = .next t) :
    ClearsOnly (r = ·) s t := by
  cases r with
  | cmd => exact (exec_command_keepsFlags h).clearsOnly
  | irqStatus =>
    cases h
    exact ⟨fun hne => absurd rfl hne, fun _ => .refl _⟩
  | err =>
    cases h
    exact ⟨fun _ => .refl _, fun hne => absurd rfl hne⟩
  | txBitdur | txLen | txMsg =>
    cases h
    refine KeepsFlags.clearsOnly (unlessBusy_keepsFlags ?_)
    exact .of_eq rfl rfl
  | _ =>
    cases h
    exact KeepsFlags.clearsOnly (.of_eq rfl rfl)

/-- An access clears a bit of IRQ_STATUS or ERR only by a legal write to that register. -/
theorem busPhase_clearsOnly {c : Cycle} {s t : State} (h : busPhase c.bus s = .next t) :
    ClearsOnly (writesReg c) s t := by
  rcases busPhase_cases c.bus s with ⟨-, e⟩ | ⟨a, -, -, e⟩ | ⟨a, r, -, -, -, e⟩ | ⟨a, r, ha, hr, hw, e⟩ <;>
    rw [e] at h
  · cases h
    exact KeepsFlags.clearsOnly (.of_eq rfl rfl)
  · cases h
    exact KeepsFlags.clearsOnly (.of_eq rfl rfl)
  · cases h
    rw [readAccess_eq]
    exact KeepsFlags.clearsOnly (.of_eq rfl rfl)
  · have hclears := writeReg_clearsOnly h
    have hreg {r' : Reg} (hno : ¬ writesReg c r') : r ≠ r' := fun heq => hno ⟨a, ha, hw, heq ▸ hr⟩
    exact ⟨fun hno => hclears.irq (hreg hno), fun hno => hclears.err (hreg hno)⟩

/-- A cycle without reset clears a bit of IRQ_STATUS or ERR only by a legal write to that register. -/
theorem runCycle_clearsOnly {c : Cycle} {s t : State} (hrst : c.rst = false)
    (h : runCycle c s = .next t) : ClearsOnly (writesReg c) s t := by
  obtain ⟨u, v, hbus, htx, hevent⟩ := (runCycle_eq_next hrst).mp h
  exact (busPhase_clearsOnly hbus).trans
    ((txPhase_keepsFlags htx).trans (exec_event_keepsFlags (isEvent_decodeEvent _ _) hevent))

theorem runSymbol_keepsFlags {bits : Bits} {s t : State} (h : runSymbol bits s = .next t) :
    KeepsFlags s t := by
  obtain ⟨u, hu, rfl⟩ := runSymbol_eq_next h
  have htx := txPhases_keepsFlags hu
  exact .trans ⟨htx.irq, htx.err⟩ (appendAll_keepsFlags bits u)

theorem not_writesReg_idleCycle (r : Reg) : ¬ writesReg idleCycle r := by
  rintro ⟨a, ha, -⟩
  cases ha

/-- Settles O55: the write by what it does to its register; a step phase by phase, of which only the bus phase
clears a flag. -/
theorem onlyTheHostClearsPendingBits : Obligations.OnlyTheHostClearsPendingBits := by
  refine ⟨fun s w => ⟨writes_register .irqStatus (by decide) rfl, writes_register .err (by decide) rfl⟩,
    fun s t h => ?_⟩
  obtain ⟨c, rest, hc, e⟩ | ⟨bits, rest, e⟩ := step_cases s <;> rw [e] at h
  · have hcycle {r : Reg} (hno : ∀ c rest, s.inputs = .cycle c :: rest → c.rst = false ∧ ¬ writesReg c r) :
        c.rst = false ∧ ¬ writesReg c r := by
      obtain hc | rfl := hc
      · exact hno c rest hc
      · exact ⟨rfl, not_writesReg_idleCycle r⟩
    exact ⟨fun hno => (runCycle_clearsOnly (hcycle hno).1 h).irq (hcycle hno).2,
      fun hno => (runCycle_clearsOnly (hcycle hno).1 h).err (hcycle hno).2⟩
  · have hkeeps := runSymbol_keepsFlags h
    exact ⟨fun _ => hkeeps.irq, fun _ => hkeeps.err⟩

/-! ### Phases of one cycle -/

/-- A cycle that clears bits of IRQ_STATUS comes to its TX phase as a cycle without an access does from a
cleared IRQ_STATUS, but for the bits left and the response. -/
theorem overlay_clearIrq (tx : Tx) (irq : BitVec 6) (w : Word) (s : State) :
    overlay tx (some ⟨0#32, false⟩) irq 0#3 (clearIrq w (respond 0#32 false s)) =
      overlay tx (some ⟨0#32, false⟩) (s.irqStatus &&& ~~~ (w.setWidth 6)) 0#3
        (overlay tx none irq 0#3 (noResponse { s with irqStatus := 0#6 })) := by
  simp only [overlay, clearIrq, respond, noResponse, BitVec.zero_or, BitVec.or_zero, BitVec.or_comm irq]

/-- Settles O56: the later phases run beside the bits that the write leaves, and raise what they raise without
them. -/
theorem setWinsOverClear : Obligations.SetWinsOverClear := by
  intro s t u c w hrst hbus ht hu
  obtain ⟨s₁, t₁, hs₁, ht₁, ht⟩ := (runCycle_eq_next hrst).mp ht
  obtain ⟨s₂, t₂, hs₂, ht₂, hu⟩ := (runCycle_eq_next (by exact hrst)).mp hu
  have hreg : accessedReg (writeOf 0x010#16 w) = some .irqStatus := accessedReg_at rfl rfl
  rw [hbus, busPhase_write hreg rfl] at hs₁
  cases hs₁
  cases hs₂
  obtain ⟨-, e⟩ | ⟨tx, irq, e₁, e₂⟩ := txPhase_of_sameSend (s := clearIrq w (respond 0#32 false s))
    (t := noResponse { s with irqStatus := 0#6 }) (.of_eq rfl rfl rfl) rfl s.tx.busy
  · cases e.symm.trans ht₂
  cases e₁.symm.trans ht₁
  cases e₂.symm.trans ht₂
  have hover := exec_event_overlay tx (some ⟨0#32, false⟩) (s.irqStatus &&& ~~~ (w.setWidth 6)) 0#3
    (isEvent_decodeEvent _ _) hu
  cases ht.symm.trans ((congrArg _ (overlay_clearIrq tx irq w s)).trans hover)
  exact BitVec.or_comm _ _

/-- Settles O58: the event leaves what the TX phase depends on, and the TX phase is beside what the event
depends on. -/
theorem txAndRxAreIndependent : Obligations.TxAndRxAreIndependent := by
  intro i b s hevent
  obtain ⟨t, ht⟩ := exec_next i s
  obtain ⟨-, -, -, htx, hresp, hclk, -, -, hbytes, -⟩ := eventsFrame i s t hevent ht
  have hsame : SameSend s t :=
    ⟨hclk, by rw [htx], by rw [htx], by rw [htx], by rw [htx],
      fun a ha => hbytes a fun hin => Nat.not_le.mpr ha hin.1⟩
  rw [ht, chain_next]
  obtain ⟨e, e'⟩ | ⟨tx, irq, e, e'⟩ := txPhase_of_sameSend hsame htx b <;> rw [e, e']
  · rfl
  · rw [hresp]
    exact exec_event_overlay tx s.busResp irq 0#3 hevent ht

end Sys2Proof.Machine
end

section
/-!
A step as a whole (60 R243, R250, R251): it never stops, it runs the instruction its entry of the script
carries, and what meets in one cycle has the outcome the order of the phases gives.
-/

namespace Sys2Proof.Machine

/-! ### A step, by the next entry of the script -/

theorem step_of_nil {s : State} (h : s.inputs = []) : step s = runCycle idleCycle s := by
  rw [step, stepInputs, h]

theorem step_of_cycle {s : State} {c : Cycle} {rest : List Input} (h : s.inputs = .cycle c :: rest) :
    step s = runCycle c { s with inputs := rest } := by
  rw [step, stepInputs, h]

theorem step_of_symbol {s : State} {bits : Bits} {rest : List Input} (h : s.inputs = .symbol bits :: rest) :
    step s = runSymbol bits { s with inputs := rest } := by
  rw [step, stepInputs, h]

/-! ### No step stops the block -/

theorem txPhase_next_of_inv {b : Bool} {s : State} (hinv : Inv s) (hb : b = true → s.tx.busy = true) :
    ∃ t, txPhase b s = .next t := by
  obtain ⟨-, ⟨-, hrun⟩, -, -⟩ := hinv
  cases b with
  | false => exact ⟨s, rfl⟩
  | true => exact txPhase_next (hrun (hb rfl))

theorem txPhases_next {s : State} (n : Nat) (hinv : Inv s) : ∃ t, txPhases n s = .next t := by
  induction n generalizing s with
  | zero => exact ⟨s, rfl⟩
  | succ n ih =>
    obtain ⟨u, hu⟩ := txPhase_next_of_inv hinv id
    obtain ⟨t, ht⟩ := ih (txPhase_inv hinv id hu)
    exact ⟨t, chain_eq_next.mpr ⟨u, hu, ht⟩⟩

theorem runCycle_next {s : State} (c : Cycle) (hinv : Inv s) : ∃ t, runCycle c s = .next t := by
  cases hrst : c.rst with
  | true => exact ⟨_, if_pos hrst⟩
  | false =>
    obtain ⟨u, hu⟩ := busPhase_next c.bus s
    obtain ⟨v, hv⟩ := txPhase_next_of_inv (busPhase_inv hinv hu) (busPhase_busy_of_busy · hu)
    obtain ⟨t, ht⟩ := exec_next (decodeEvent c.evt c.frame) v
    exact ⟨t, (runCycle_eq_next hrst).mpr ⟨u, v, hu, hv, ht⟩⟩

theorem runCode_of_decode {c : Code} {i : Instr} (h : decode c = .ok i) (s : State) :
    runCode c s = exec i s := by
  rw [runCode, h]

/-- Settles O54: a cycle's phases and a symbol's phases all complete. -/
theorem stepNeverStops : Obligations.StepNeverStops := by
  intro s hinv hscript
  cases hinputs : s.inputs with
  | nil =>
    rw [step_of_nil hinputs]
    exact runCycle_next idleCycle hinv
  | cons x rest =>
    cases x with
    | cycle c =>
      rw [step_of_cycle hinputs]
      have hinv' : Inv { s with inputs := rest } := hinv.congr rfl rfl rfl rfl rfl
      exact runCycle_next c hinv'
    | symbol bits =>
      rw [step_of_symbol hinputs]
      obtain ⟨i, hi⟩ := hscript bits (hinputs ▸ List.mem_cons_self)
      have hinv' : Inv (noResponse { s with inputs := rest }) := hinv.congr rfl rfl rfl rfl rfl
      obtain ⟨u, hu⟩ := txPhases_next bits.length hinv'
      obtain ⟨t, ht⟩ := exec_next i u
      exact ⟨t, chain_eq_next.mpr ⟨u, hu, (runCode_of_decode (c := .wire bits) hi u).trans ht⟩⟩

/-! ### What a step runs -/

theorem chain_next_right (r : Result) : chain r .next = r := by
  cases r <;> rfl

theorem runCycle_of_decode {c : Cycle} {j : Instr} (hrst : c.rst = false)
    (h : decode (.evt c.evt c.frame) = .ok j) (s : State) :
    runCycle c s = chain (chain (busPhase c.bus s) (txPhase s.tx.busy)) (exec j) := by
  cases h
  exact runCycle_eq hrst s

/-- Settles O48: the phases of a cycle, with the bus phase told for the accesses named. -/
theorem stepRunsTheDecodedInstruction : Obligations.StepRunsTheDecodedInstruction := by
  intro s
  refine ⟨fun c rest j hin hrst hj => ?_, fun c rest hin hrst => ?_,
    fun w e f rest i j hin hi hj => ⟨0#32, ?_⟩, fun e f rest j hin hj => ?_,
    fun bits rest i hin hi => ?_, fun hin => ?_⟩
  · rw [step_of_cycle hin]
    exact runCycle_of_decode hrst hj _
  · rw [step_of_cycle hin]
    exact if_pos hrst
  · cases hi
    rw [step_of_cycle hin, runCycle_of_decode rfl hj, busPhase_cmdCycle]
    rfl
  · rw [step_of_cycle hin]
    exact runCycle_of_decode rfl hj _
  · rw [step_of_symbol hin]
    exact congrArg (chain _) (funext (runCode_of_decode hi))
  · rw [step_of_nil hin]
    exact (runCycle_eq rfl s).trans (chain_next_right (txPhase s.tx.busy (noResponse s)))

/-! ### What meets in one cycle -/

/-- A cycle that writes a word to CMD runs its command, the TX phase and its event. -/
theorem runCycle_cmdCycle_eq_next {w : Word} {e : BitVec 3} {f : Frame} {s t : State} :
    runCycle (cmdCycle w e f) s = .next t ↔
      ∃ u v, exec (decodeCommand w) (respond 0#32 false s) = .next u ∧ txPhase s.tx.busy u = .next v ∧
        exec (decodeEvent e f) v = .next t := by
  rw [runCycle_eq_next rfl, busPhase_cmdCycle]
  rfl

theorem exec_event_busResp {e : BitVec 3} {f : Frame} {s t : State}
    (h : exec (decodeEvent e f) s = .next t) : t.busResp = s.busResp := by
  obtain ⟨-, -, -, -, hresp, -⟩ := eventsFrame _ s t (isEvent_decodeEvent e f) h
  exact hresp

/-- RX_START and OPEN_OK: the bus phase opens the session that the event then makes active. -/
theorem rxStart_openOk_cycle {s t : State} {f : Frame} (hidle : s.rx.session = .idle)
    (h : runCycle (cmdCycle 3#32 0#3 f) s = .next t) :
    runCycle (cmdCycle 3#32 1#3 f) s = .next { t with rx := { t.rx with session := .active } } := by
  obtain ⟨u, v, hu, hv, ht⟩ := runCycle_cmdCycle_eq_next.mp h
  cases ht
  refine runCycle_cmdCycle_eq_next.mpr ⟨u, t, hu, hv, ?_⟩
  have hopening : t.rx.session = .opening := by
    cases ((rxStartResult.2 (respond 0#32 false s)).2 hidle).symm.trans hu
    rw [(txPhase_same hv).rx]
  exact if_pos hopening

/-- TX_STOP and the end of a period: the cancel flag is set before the TX phase looks at it. -/
theorem txStop_periodEnd_cycle {s t : State} {f : Frame} (hbusy : s.tx.busy = true)
    (hphase : s.tx.phase = .bits) (htimer : s.tx.timer = 0#32)
    (hnotLast : s.tx.bitIndex.toNat + 1 ≠ s.tx.total.toNat)
    (h : runCycle (cmdCycle 2#32 0#3 f) s = .next t) :
    t.tx.phase = .guard ∧ t.tx.level = false ∧ t.tx.lastEnd = .cancelled := by
  obtain ⟨u, v, hu, hv, ht⟩ := runCycle_cmdCycle_eq_next.mp h
  cases ht
  cases ((txStopResult.2 (respond 0#32 false s)).1 hbusy).symm.trans hu
  rw [hbusy, txPhase_startGuard (by exact htimer) (by exact hphase) (.inl rfl)] at hv
  cases hv
  exact ⟨rfl, rfl, if_neg (mt (onLastBit_iff _).mp hnotLast)⟩

theorem txSend_respond (v : Word) (err : Bool) (s : State) :
    txSend (respond v err s) = respond v err (txSend s) := by
  simp only [txSend, apply_ite (respond v err)]
  rfl

/-- TX_SEND and the TX phase: a send that the cycle accepts meets no TX phase in it. -/
theorem txSend_cycle {s t u : State} {f : Frame} (hidle : s.tx.busy = false)
    (h : runCycle (cmdCycle 1#32 0#3 f) s = .next t) (hsend : exec .txSend s = .next u) : t.tx = u.tx := by
  obtain ⟨v, v', hv, hv', ht⟩ := runCycle_cmdCycle_eq_next.mp h
  rw [hidle] at hv'
  cases ht
  cases hv'
  cases hsend
  cases hv
  rw [txSend_respond, respond_tx]

/-- CFG write and FRAME: the old CFG is gone before the event. -/
theorem cfgWrite_cycle (s : State) (e : BitVec 3) (f : Frame) (w : Word) (c : Cfg) :
    runCycle ⟨false, some (writeOf 0x004#16 w), e, f⟩ { s with cfg := c } =
      runCycle ⟨false, some (writeOf 0x004#16 w), e, f⟩ s := by
  have hreg : accessedReg (writeOf 0x004#16 w) = some .cfg := accessedReg_at rfl rfl
  rw [runCycle_eq rfl, runCycle_eq rfl, busPhase_write hreg rfl, busPhase_write hreg rfl]
  rfl

/-- A read and an internal update: the response is the bus phase's. -/
theorem runCycle_busResp {c : Cycle} (hrst : c.rst = false) {s t u : State}
    (h : runCycle c s = .next t) (hbus : busPhase c.bus s = .next u) : t.busResp = u.busResp := by
  obtain ⟨u', v, hu, hv, ht⟩ := (runCycle_eq_next hrst).mp h
  cases hbus.symm.trans hu
  rw [exec_event_busResp ht, (txPhase_same hv).busResp]

/-- Settles O49: one lemma for each meeting; after an RX_STOP every event of its cycle meets IDLE. -/
theorem simultaneousEvents : Obligations.SimultaneousEvents := by
  intro s e f
  obtain ⟨-, hstop⟩ := rxStopResult
  obtain ⟨-, -, hevent⟩ := hstop s
  exact ⟨(hevent 3#3 f).trans (hevent 0#3 f).symm, fun t hidle h => rxStart_openOk_cycle hidle h,
    fun t hbusy hphase htimer hnotLast h => txStop_periodEnd_cycle hbusy hphase htimer hnotLast h,
    fun t u hidle h hsend => txSend_cycle hidle h hsend, fun w c => cfgWrite_cycle s e f w c,
    fun a t u h hbus => runCycle_busResp rfl h hbus⟩

end Sys2Proof.Machine
end

section
/-!
Reset (70 R270, R272): a reset cycle leaves `resetRegisters` of its state, but for the response, and so
every single register reads there what it reads in `State.reset`.
-/

namespace Sys2Proof.Machine

/-! ### A reset cycle -/

theorem resetCycle_eq (c : Cycle) (s : State) :
    resetCycle c s = { resetRegisters s with busResp := c.bus.map fun _ => ⟨0#32, false⟩ } := by
  unfold resetCycle
  cases c.bus <;> rfl

theorem runCycle_of_rst {c : Cycle} (hrst : c.rst = true) (s : State) :
    runCycle c s = .next (resetCycle c s) :=
  if_pos hrst

/-- Settles O50: the registers are those of `resetRegisters`, the response that of a reset cycle. -/
theorem resetCycleResult : Obligations.ResetCycleResult := by
  intro s c hrst
  refine ⟨0, s.freshDraw, s.inputs, c.bus.map fun _ => ⟨0#32, false⟩, ?_, fun hbus => ?_⟩
  · rw [runCycle_of_rst hrst, resetCycle_eq]
    rfl
  · obtain ⟨a, ha⟩ := Option.ne_none_iff_exists'.mp hbus
    rw [ha, Option.map_some]

/-! ### Reads after a reset cycle -/

/-- No single register reads what a reset cycle keeps: the windows, the draws, the parameter. -/
theorem readReg_resetCycle {n : Nat} {r : Reg} (hr : (n, r) ∈ regTable) (c : Cycle) (s : State) :
    readReg r (resetCycle c s) = readReg r State.reset := by
  rw [resetCycle_eq]
  cases r with
  | txMsg k => simp [regTable] at hr
  | rxMsg k => simp [regTable] at hr
  | _ => rfl

theorem reads_resetCycle {a : BitVec 16} {v : Word} (r : Reg) (hr : (a.toNat, r) ∈ regTable)
    (hv : readReg r State.reset = v) (c : Cycle) (s : State) : Reads (resetCycle c s) a v :=
  reads_register r hr ((readReg_resetCycle hr c s).trans hv)

/-- The single registers after ID and CFG have the reset value 0 (10 R24 to R46). -/
theorem readReg_reset_of_mem_drop {e : Nat × Reg} (he : e ∈ regTable.drop 2) :
    readReg e.2 State.reset = 0#32 := by
  revert e
  decide

/-- The offsets of the map are 16-bit addresses (20 R61, R62). -/
theorem toNat_ofNat_of_mem_regTable {e : Nat × Reg} (he : e ∈ regTable) :
    (BitVec.ofNat 16 e.1).toNat = e.1 := by
  revert e
  decide

theorem reads_zero_resetCycle {a : BitVec 16}
    (ha : a ∈ (regTable.drop 2).map fun e => BitVec.ofNat 16 e.1) (c : Cycle) (s : State) :
    Reads (resetCycle c s) a 0#32 := by
  obtain ⟨e, he, rfl⟩ := List.mem_map.mp ha
  have hmem := List.mem_of_mem_drop he
  refine reads_resetCycle e.2 ?_ (readReg_reset_of_mem_drop he) c s
  rwa [toNat_ofNat_of_mem_regTable hmem]

theorem irqOutput_of_irqStatus_eq_zero {s : State} (h : s.irqStatus = 0#6) : irqOutput s = false := by
  simp [irqOutput, h]

/-- Settles O51: the reads are those of the registers in `State.reset`; the outputs are fields of it. -/
theorem resetReadings : Obligations.ResetReadings := by
  intro s c hrst
  refine ⟨resetCycle c s, runCycle_of_rst hrst s, reads_resetCycle .id (by decide) rfl c s,
    reads_resetCycle .cfg (by decide) rfl c s, fun a ha => reads_zero_resetCycle ha c s, ?_⟩
  rw [resetCycle_eq]
  exact ⟨rfl, rfl, rfl, irqOutput_of_irqStatus_eq_zero rfl, rfl, rfl⟩

/-! ### The invariant -/

/-- Settles O52: the memory is empty, sequencer and receiver are idle, buffer and mailbox are empty. -/
theorem invAtReset : Obligations.InvAtReset := by
  have hmem : MemInv State.reset := ⟨.nil, by rintro _ ⟨⟩⟩
  have htx : TxInv State.reset := ⟨fun _ => ⟨rfl, rfl, rfl, rfl⟩, by rintro ⟨⟩⟩
  have hrx : RxInv Rx.reset := by unfold RxInv; decide
  have hasm : AsmInv Asm.reset := by unfold AsmInv; decide
  exact ⟨hmem, htx, hrx, hasm⟩

end Sys2Proof.Machine
end
